-- ==== Sys2Proof/Word.lean ====
section
/-!
DEFINITION. The words of the block: a byte (00_scope.md R10), a host register word
(R8 `REG_BITS`), a 5-bit symbol (30_encoding.md R76) and the 40-bit accumulator (R77, R78).
-/

namespace Sys2Proof

/-- A byte; a character is one byte (R10). -/
abbrev Byte := BitVec 8

/-- A host register word, an address or write data of a transaction (R8, R73). -/
abbrev Word := BitVec 32

/-- A symbol, 0 to 31 (R76). -/
abbrev Symbol := BitVec 5

/-- The accumulator of a chunk or group (R77, R78). -/
abbrev Acc := BitVec 40

end Sys2Proof
end

