-- ==== Sys2Proof/Config.lean ====
section
/-!
DEFINITION. The implementation parameters of 00_scope.md R8 that a rule reads, and the free
values the spec leaves unspecified (93_implementation_defined.md U1 to U5).
-/

namespace Sys2Proof

/-- The parameters "the model takes" (R8). A machine's State carries its own and no step changes
them (log entries 5 and 6). `LAT` is not here: no rule reads it (R210). -/
structure Config where
  /-- `N_IN`, input buffer capacity in bytes, 1 to 2^32 - 1 (R8, 92 D5). -/
  nIn : Nat
  /-- `WS_SET`, the bytes DECODE and VALIDATE skip (R8, 92 D9). -/
  wsSet : List Byte
  /-- `VAL_STRICT_PAD`: VALIDATE applies DECODE's pad-count rule (R8, 92 D12). -/
  valStrictPad : Bool
deriving DecidableEq, Repr

namespace Config

/-- `N_OUT = 8 * ceil(N_IN / 5)` (R8): `ceil((n + 1) / 5) = n div 5 + 1`. Written so that the
kernel sees a positive number for an open N_IN; `nOut_eq` (Laws) gives the usual form. -/
def nOut (c : Config) : Nat :=
  match c.nIn with
  | 0 => 0
  | n + 1 => 8 * (n / 5 + 1)

/-- `N_IN - 1`, left open by the spec (R8, 92 D5): no body, so no proof sees its value.
Its type is exactly the range R8 allows. -/
opaque openNInPred : Fin 4294967295

/-- An unspecified byte (`ANY8`, an UNSET byte): the draw of counter `draw` at buffer index
`index` (R207, R212; log entry 7). No body: nothing constrains it. -/
opaque freeByte : (draw index : Nat) → Byte

/-- An unspecified 32-bit value (`ANY32`): the draw of counter `draw` (R160, R207; log entry 7).
No body: nothing constrains it. -/
opaque freeWord : (draw : Nat) → Word

/-- This hardware: N_IN open, WS_SET and VAL_STRICT_PAD at R8's values. -/
def thisHardware : Config :=
  { nIn := openNInPred.val + 1
    wsSet := [0x09, 0x0A, 0x0B, 0x0C, 0x0D, 0x20]
    valStrictPad := true }

end Config

end Sys2Proof
end

