-- ==== Sys2Proof/Syntax.lean ====
section
/-!
DEFINITION. The instructions: every row of `spec/opcode_table.json`, and the two word formats
the table gives them (its column "format"; 30_encoding.md R71, R73). 00_scope.md R7: the
"instructions" of this block are the commands a host writes and its bus transactions.
-/

namespace Sys2Proof

/-- One constructor per row of the opcode table. Operand bits the hardware ignores are kept as
operands, so that no bit of an encoding is lost (log entry 21). -/
inductive Instr where
  /-- CMD write word, OP = 0b01 (R71, R140); `reserved` is `w[31:2]`, ignored (R72). -/
  | encode (reserved : BitVec 30)
  /-- CMD write word, OP = 0b10 (R71, R145). -/
  | decode (reserved : BitVec 30)
  /-- CMD write word, OP = 0b11 (R71, R152). -/
  | validate (reserved : BitVec 30)
  /-- CMD write word, OP = 0b00, reserved: completes at once as BadCommand (R71, R131). -/
  | badcmd (reserved : BitVec 30)
  /-- sel 0b000, register read (R160); `wdata` is ignored (R73). -/
  | rd (addr wdata : Word)
  /-- sel 0b001, register write (R161). -/
  | wr (addr wdata : Word)
  /-- sel 0b010, IBUF byte read (R167); `wdata` is ignored (R73). -/
  | rdbIbuf (addr wdata : Word)
  /-- sel 0b011, IBUF byte write (R168); `wdata[31:8]` is ignored (R73). -/
  | wrbIbuf (addr wdata : Word)
  /-- sel 0b100, OBUF byte read (R169); `wdata` is ignored (R73). -/
  | rdbObuf (addr wdata : Word)
  /-- sel 0b101, a write to the read-only OBUF port (R170). -/
  | illegalWrbObuf (addr wdata : Word)
  /-- sel 0b110, a read of no port (R170). -/
  | illegalPort3Rd (addr wdata : Word)
  /-- sel 0b111, a write to no port (R170). -/
  | illegalPort3Wr (addr wdata : Word)
deriving DecidableEq, Repr

/-- A host step as the block receives it, in the opcode table's two formats (log entry 3). -/
inductive InstrWord where
  /-- "CMD write word (REG offset 0x00, sel 0b001)": the 32-bit word of R71. It stands for the
  transaction `(0b001, 0x00, w)`. -/
  | command (w : Word)
  /-- "bus transaction (sel[2:0], addr[31:0], wdata[31:0])": the triple of R73. -/
  | transaction (sel : BitVec 3) (addr wdata : Word)
deriving DecidableEq, Repr

/-- The six host registers (R24). -/
inductive Reg where
  | cmd | status | inLen | outLen | errChar | errPos
deriving DecidableEq, Repr

end Sys2Proof
end

