-- ==== Sys2Proof/WellFormed.lean ====
section
/-!
DEFINITION. The canonical form of an instruction: the form the assembler syntax of
30_encoding.md R82 and R83 writes. Every operand's type is its field's exact width, so every
`Instr` has an encoding and the hardware answers each one; canonical form only says that the
bits the hardware ignores are the ones the assembler emits (log entry 22).
-/

namespace Sys2Proof

/-- R82: `RD` and `RDB` have wdata 0, `WRB` has wdata `zext_32(imm8)`; R83: the command
pseudo-instructions write 0x1, 0x2, 0x3. A `WR` may carry any 32-bit value, and an illegal
selector has no syntax of its own and is written as its bare triple. -/
def Instr.wellFormed : Instr → Bool
  | .encode reserved => reserved == 0#30
  | .decode reserved => reserved == 0#30
  | .validate reserved => reserved == 0#30
  | .badcmd reserved => reserved == 0#30
  | .rd _ wdata => wdata == 0#32
  | .wr _ _ => true
  | .rdbIbuf _ wdata => wdata == 0#32
  | .wrbIbuf _ wdata => wdata.extractLsb' 8 24 == 0#24
  | .rdbObuf _ wdata => wdata == 0#32
  | .illegalWrbObuf _ _ => true
  | .illegalPort3Rd _ _ => true
  | .illegalPort3Wr _ _ => true

end Sys2Proof
end

