-- ==== Sys2Proof/Decode.lean ====
section
/-!
DEFINITION. The decoder, total on words of both formats and, byte by byte, total on any byte
string with a named rejection; the encoder written from the same tables (30_encoding.md R71,
R73, R74); the opcode table as rows.
-/

namespace Sys2Proof

/-- `OP = w[1:0]` selects the command, `w[31:2]` is reserved and ignored (R71, R72). -/
def decodeCommand (w : Word) : Instr :=
  let reserved := w.extractLsb' 2 30
  let op := w.extractLsb' 0 2
  if op = 0b01#2 then .encode reserved
  else if op = 0b10#2 then .decode reserved
  else if op = 0b11#2 then .validate reserved
  else .badcmd reserved

/-- The selector map of R74; the last case is 0b111, the one selector left. -/
def decodeTransaction (sel : BitVec 3) (addr wdata : Word) : Instr :=
  if sel = 0b000#3 then .rd addr wdata
  else if sel = 0b001#3 then .wr addr wdata
  else if sel = 0b010#3 then .rdbIbuf addr wdata
  else if sel = 0b011#3 then .wrbIbuf addr wdata
  else if sel = 0b100#3 then .rdbObuf addr wdata
  else if sel = 0b101#3 then .illegalWrbObuf addr wdata
  else if sel = 0b110#3 then .illegalPort3Rd addr wdata
  else .illegalPort3Wr addr wdata

/-- The instruction a host word stands for. Every word of either format has one (R72, R75). -/
def decode : InstrWord → Instr
  | .command w => decodeCommand w
  | .transaction sel addr wdata => decodeTransaction sel addr wdata

/-- Why a byte string is no host word. Both are rejections of the model's own byte layout
(log entry 4), not of anything the spec gives a meaning. -/
inductive DecodeError where
  /-- Neither 4 bytes (a CMD word) nor 9 bytes (a transaction). -/
  | frameLength (bytes : Nat)
  /-- Bits 7:3 of a transaction's selector byte are not 0. -/
  | selectorBits (b : Byte)
deriving DecidableEq, Repr

/-- A host word from bytes, lowest address first: a CMD word is 4 bytes, least significant
first; a transaction is its selector byte, then addr, then wdata, each least significant byte
first. DESIGN CHOICE (log entry 4): the spec gives no byte layout. -/
def wordOfBytes : List Byte → Except DecodeError InstrWord
  | [b0, b1, b2, b3] => .ok (.command (b3 ++ b2 ++ b1 ++ b0))
  | [s, a0, a1, a2, a3, d0, d1, d2, d3] =>
    if s.extractLsb' 3 5 = 0#5 then
      .ok (.transaction (s.extractLsb' 0 3) (a3 ++ a2 ++ a1 ++ a0) (d3 ++ d2 ++ d1 ++ d0))
    else .error (.selectorBits s)
  | bs => .error (.frameLength bs.length)

/-- The decoder on bytes: total, rejecting by name. -/
def decodeBytes (bs : List Byte) : Except DecodeError Instr :=
  match wordOfBytes bs with
  | .ok w => .ok (decode w)
  | .error e => .error e

/-- The four bytes of a word, least significant first. -/
def bytesOfWord (w : Word) : List Byte :=
  [w.extractLsb' 0 8, w.extractLsb' 8 8, w.extractLsb' 16 8, w.extractLsb' 24 8]

/-- The bytes of a host word; `wordOfBytes` reads them back. -/
def bytesOfInstrWord : InstrWord → List Byte
  | .command w => bytesOfWord w
  | .transaction sel addr wdata => (0#5 ++ sel) :: (bytesOfWord addr ++ bytesOfWord wdata)

/-- A CMD word from its fields: `{reserved, OP}` (R71). -/
def commandWord (reserved : BitVec 30) (op : BitVec 2) : Word := reserved ++ op

/-- The word of an instruction (R71, R74). -/
def encode : Instr → InstrWord
  | .encode reserved => .command (commandWord reserved 0b01#2)
  | .decode reserved => .command (commandWord reserved 0b10#2)
  | .validate reserved => .command (commandWord reserved 0b11#2)
  | .badcmd reserved => .command (commandWord reserved 0b00#2)
  | .rd addr wdata => .transaction 0b000#3 addr wdata
  | .wr addr wdata => .transaction 0b001#3 addr wdata
  | .rdbIbuf addr wdata => .transaction 0b010#3 addr wdata
  | .wrbIbuf addr wdata => .transaction 0b011#3 addr wdata
  | .rdbObuf addr wdata => .transaction 0b100#3 addr wdata
  | .illegalWrbObuf addr wdata => .transaction 0b101#3 addr wdata
  | .illegalPort3Rd addr wdata => .transaction 0b110#3 addr wdata
  | .illegalPort3Wr addr wdata => .transaction 0b111#3 addr wdata

/-- The bytes of an instruction. -/
def encodeBytes (i : Instr) : List Byte := bytesOfInstrWord (encode i)

/-- The opcode table's two formats. -/
inductive Format where
  | commandWord | busTransaction
deriving DecidableEq, Repr

/-- A row of the opcode table: the bits under `mask` of the format's first field (the CMD word,
or the selector) equal `value`. -/
structure OpcodeRow where
  mnemonic : String
  format : Format
  mask : Nat
  value : Nat
deriving DecidableEq, Repr

/-- `spec/opcode_table.json`, row by row. -/
def opcodeTable : List OpcodeRow :=
  [ ⟨"ENCODE", .commandWord, 0x3, 0x1⟩,
    ⟨"DECODE", .commandWord, 0x3, 0x2⟩,
    ⟨"VALIDATE", .commandWord, 0x3, 0x3⟩,
    ⟨"BADCMD", .commandWord, 0x3, 0x0⟩,
    ⟨"RD", .busTransaction, 0x7, 0x0⟩,
    ⟨"WR", .busTransaction, 0x7, 0x1⟩,
    ⟨"RDB_IBUF", .busTransaction, 0x7, 0x2⟩,
    ⟨"WRB_IBUF", .busTransaction, 0x7, 0x3⟩,
    ⟨"RDB_OBUF", .busTransaction, 0x7, 0x4⟩,
    ⟨"ILLEGAL_WRB_OBUF", .busTransaction, 0x7, 0x5⟩,
    ⟨"ILLEGAL_PORT3_RD", .busTransaction, 0x7, 0x6⟩,
    ⟨"ILLEGAL_PORT3_WR", .busTransaction, 0x7, 0x7⟩ ]

/-- A word fits a row: its format is the row's and its masked first field is the row's value. -/
def OpcodeRow.fits (r : OpcodeRow) : InstrWord → Bool
  | .command w => r.format == .commandWord && (w.toNat &&& r.mask) == r.value
  | .transaction sel _ _ => r.format == .busTransaction && (sel.toNat &&& r.mask) == r.value

/-- An instruction's row name in the opcode table. -/
def Instr.mnemonic : Instr → String
  | .encode _ => "ENCODE"
  | .decode _ => "DECODE"
  | .validate _ => "VALIDATE"
  | .badcmd _ => "BADCMD"
  | .rd _ _ => "RD"
  | .wr _ _ => "WR"
  | .rdbIbuf _ _ => "RDB_IBUF"
  | .wrbIbuf _ _ => "WRB_IBUF"
  | .rdbObuf _ _ => "RDB_OBUF"
  | .illegalWrbObuf _ _ => "ILLEGAL_WRB_OBUF"
  | .illegalPort3Rd _ _ => "ILLEGAL_PORT3_RD"
  | .illegalPort3Wr _ _ => "ILLEGAL_PORT3_WR"

/-- The low `count` bytes of a number, least significant first. -/
def leBytes : (count w : Nat) → List Byte
  | 0, _ => []
  | count + 1, w => BitVec.ofNat 8 w :: leBytes count (w / 256)

/-- The bytes of a table word of `nbits` bits: a word of 32 bits is a CMD word, any other a
transaction, whose bits above `nbits` are 0 (log entry 4). -/
def tableBytes (nbits w : Nat) : List Byte :=
  leBytes (if nbits = 32 then 4 else 9) (w % 2 ^ nbits)

/-- The instruction the decoder reads from a table word. -/
def decodeTableWord (nbits w : Nat) : Option Instr :=
  match decodeBytes (tableBytes nbits w) with
  | .ok i => some i
  | .error _ => none

end Sys2Proof
end

