-- ==== Sys2Proof/Machine/State.lean ====
section
/-!
DEFINITION. The state of the block (10_state.md R42) as plain data, the reasons a step can stop,
and the state after reset (R43).
-/

namespace Sys2Proof.Machine

open Sys2Proof

/-- A byte array with UNSET bytes (R42): (index, byte) pairs, indices strictly rising. An
unlisted index is UNSET, a byte with no value: reading it is a free draw, never a fixed byte. -/
abbrev Memory := List Host.Cell

/-- The canonical form. An unlisted byte has no value, so no entry can equal it. -/
abbrev Memory.wf (m : Memory) : Prop := m.Pairwise (fun c d => c.1 < d.1)

/-- The error kinds (60_exceptions.md R180). Codes 6 and 7 have no constructor. -/
inductive ErrKind where
  | paddingInMiddle | invalidCharacter | badLength | badPadding | badCommand
deriving DecidableEq, Repr

/-- The commands the engine runs (R71). -/
inductive Command where
  | encode | decode | validate
deriving DecidableEq, Repr

/-- The engine's hidden state while a command is in flight: `eng_op` and `eng_len` (R40, R42). -/
structure InFlight where
  op : Command
  len : Word
deriving DecidableEq, Repr

/-- The response status of a transaction (R73). -/
inductive Resp where
  | okay | error
deriving DecidableEq, Repr

/-- The response `(rdata, resp)` of a transaction (R73). -/
structure Response where
  rdata : Word
  resp : Resp
deriving DecidableEq, Repr

/-- What the outside does next (log entry 1). -/
inductive Event where
  /-- The host issues a transaction (R73). -/
  | host (w : InstrWord)
  /-- A platform bus presents a register access narrower than a word (R165; log entry 16). -/
  | subWord (we : Bool) (addr : Word)
  /-- The engine is given its turn (R20). -/
  | engineTurn
  /-- The reset input (R200). -/
  | reset
deriving DecidableEq, Repr

/-- The state: the spec's fields (R42), then the model's own four (INVENTORY.md, State). -/
structure State where
  /-- `cmd_last_op`, what CMD reads (R25). -/
  lastOp : BitVec 2
  /-- STATUS.DONE (R28), and the output `done_o` (R36). -/
  done : Bool
  /-- STATUS.ERR (R29). -/
  err : Bool
  /-- STATUS.VALID (R30). -/
  valid : Bool
  /-- STATUS.ERR_KIND (R31); `none` is code 0. -/
  errKind : Option ErrKind
  /-- IN_LEN (R32). -/
  inLen : Word
  /-- OUT_LEN (R33). -/
  outLen : Word
  /-- ERR_CHAR bits 7:0 (R34). -/
  errChar : Byte
  /-- ERR_POS (R35). -/
  errPos : Word
  /-- IBUF (R37). -/
  ibuf : Memory
  /-- OBUF (R38). -/
  obuf : Memory
  /-- The command in flight: `busy = 1` exactly when there is one (R27, R40; log entry 13). -/
  engine : Option InFlight
  /-- The parameters of R8, which no step changes (log entries 5, 6). -/
  config : Config
  /-- The response of the last host transaction (log entry 12). -/
  response : Option Response
  /-- What the outside does next, oldest first (log entry 1). -/
  inputs : List Event
  /-- The counter the free values are applied to (log entry 7). -/
  draws : Nat
deriving DecidableEq, Repr

/-- STATUS.BUSY (R27). -/
def State.busy (s : State) : Bool := s.engine.isSome

/-- The output `done_o` (R36). -/
def State.doneO (s : State) : Bool := s.done

/-- Why the machine stops. 60_exceptions.md R188: the block has no internal fault, so no state
that satisfies the invariant of Safety.lean raises either (log entry 14). -/
inductive Fault where
  /-- Raised by the engine step when `eng_len` exceeds N_IN: it would read an IBUF index that
  does not exist (20_memory.md R58). Safe: acceptance never starts such a command (R131). -/
  | engineReadOutsideIbuf
  /-- Raised by the engine step when a result is longer than N_OUT: it would write an OBUF index
  that does not exist (R58). Safe: an output always fits (R140). -/
  | engineWriteOutsideObuf
deriving DecidableEq, Repr

/-- Why an instruction has no meaning. -/
inductive Refusal where
  /-- Raised by an arm of exec for an instruction without a meaning; safe. No arm does. -/
  | notModelled (mnemonic : String)
deriving DecidableEq, Repr

/-- The state after reset (R43): every register 0, every buffer byte UNSET, no command in
flight. The model's own fields: log entries 2, 5, 6, 7, 12. -/
def State.reset : State :=
  { lastOp := 0b00#2
    done := false
    err := false
    valid := false
    errKind := none
    inLen := 0#32
    outLen := 0#32
    errChar := 0#8
    errPos := 0#32
    ibuf := []
    obuf := []
    engine := none
    config := Config.thisHardware
    response := none
    inputs := []
    draws := 0 }

end Sys2Proof.Machine
end

