-- ==== Sys2Proof/Machine/Datapath.lean ====
section
/-!
DEFINITION. The datapath primitives of 40_datapath.md: ALPHA, CLASS, SIGCOUNT, PACK5TO8,
PADBYTES, SCAN, UNPACK8TO5. Each is a pure function of its operands. Characters are ASCII bytes
(00_scope.md R11; log entry 17).
-/

namespace Sys2Proof.Machine

open Sys2Proof

/-- The padding character `'='` (R15). -/
def padChar : Byte := 0x3D#8

/-- ALPHA: symbol to character (R100). -/
def alpha (v : Symbol) : Byte :=
  if v ≤ 25#5 then 0x41#8 + v.setWidth 8 else 0x32#8 + (v.setWidth 8 - 26#8)

/-- The classes of a character (R80). -/
inductive CharClass where
  | data | pad | ws | invalid
deriving DecidableEq, Repr

/-- A CLASS entry `(class, value)` (R80). -/
structure ClassEntry where
  cls : CharClass
  value : Symbol
deriving DecidableEq, Repr

/-- `entry[6:5]` (R80). -/
def CharClass.code : CharClass → BitVec 2
  | .data => 0b00#2
  | .pad => 0b01#2
  | .ws => 0b10#2
  | .invalid => 0b11#2

/-- The 7 bits of a CLASS entry, an internal encoding no host observes (R80). -/
def ClassEntry.toBits (e : ClassEntry) : BitVec 7 := e.cls.code ++ e.value

/-- CLASS: character to class and value, tested in this order (R102). -/
def classOf (wsSet : List Byte) (c : Byte) : ClassEntry :=
  if 0x41#8 ≤ c ∧ c ≤ 0x5A#8 then ⟨.data, (c - 0x41#8).setWidth 5⟩
  else if 0x61#8 ≤ c ∧ c ≤ 0x7A#8 then ⟨.data, (c - 0x61#8).setWidth 5⟩
  else if 0x32#8 ≤ c ∧ c ≤ 0x37#8 then ⟨.data, (c - 0x32#8 + 26#8).setWidth 5⟩
  else if c = padChar then ⟨.pad, 0#5⟩
  else if c ∈ wsSet then ⟨.ws, 0#5⟩
  else ⟨.invalid, 0#5⟩

/-- SIGCOUNT: significant symbols of a chunk of `m` bytes, `ceil(8m / 5)` (R104). -/
def sigCount (m : Nat) : Nat := (8 * m + 4) / 5

/-- The encode accumulator: byte 0 in bits 39:32, missing bytes 0x00 (R77). -/
def encodeAcc (b : List Byte) : Acc :=
  b.getD 0 0#8 ++ b.getD 1 0#8 ++ b.getD 2 0#8 ++ b.getD 3 0#8 ++ b.getD 4 0#8

/-- Symbol `i` of an accumulator, bits `39-5i : 35-5i` (R77). -/
def symbolAt (acc : Acc) (i : Nat) : Symbol := acc.extractLsb' (35 - 5 * i) 5

/-- Byte `j` of an accumulator, bits `39-8j : 32-8j` (R78). -/
def byteAt (acc : Acc) (j : Nat) : Byte := acc.extractLsb' (32 - 8 * j) 8

/-- PACK5TO8: a chunk of 1 to 5 bytes into 8 characters (R105). -/
def pack5to8 (b : List Byte) : List Byte :=
  (List.range 8).map fun i =>
    if i < sigCount b.length then alpha (symbolAt (encodeAcc b) i) else padChar

/-- PADBYTES: output bytes of a group with `p` pads; `none` is BAD (R106). -/
def padBytes (p : Nat) : Option Nat :=
  match p with
  | 0 => some 5
  | 1 => some 4
  | 3 => some 3
  | 4 => some 2
  | 6 => some 1
  | _ => none

/-- What SCAN finds (R107): the cleaned sequence, or the first character error with its byte and
index. -/
inductive ScanResult where
  | ok (t : List ClassEntry)
  | err (kind : ErrKind) (char : Byte) (pos : Nat)
deriving DecidableEq, Repr

/-- One more entry in front of a cleaned sequence. -/
def ScanResult.cons (e : ClassEntry) : ScanResult → ScanResult
  | .ok t => .ok (e :: t)
  | .err kind char pos => .err kind char pos

/-- SCAN from index `i` with the pad-seen flag as it stands there (R107). -/
def scanFrom (wsSet : List Byte) : (s : List Byte) → (i : Nat) → (padSeen : Bool) → ScanResult
  | [], _, _ => .ok []
  | c :: s, i, padSeen =>
    match (classOf wsSet c).cls with
    | .ws => scanFrom wsSet s (i + 1) padSeen
    | .invalid => .err .invalidCharacter c i
    | .pad => (scanFrom wsSet s (i + 1) true).cons ⟨.pad, 0#5⟩
    | .data =>
      if padSeen then .err .paddingInMiddle c i
      else (scanFrom wsSet s (i + 1) false).cons ⟨.data, (classOf wsSet c).value⟩

/-- SCAN of a whole input (R107). -/
def scan (wsSet : List Byte) (s : List Byte) : ScanResult := scanFrom wsSet s 0 false

/-- The decode accumulator: 5 bits shifted in per entry (R78, R108). -/
def decodeAcc (u : List ClassEntry) : Acc :=
  u.foldl (fun acc e => (acc <<< 5) ||| e.value.setWidth 40) 0#40

/-- The pad count of a group (R108). -/
def padCount (u : List ClassEntry) : Nat := (u.filter fun e => e.cls = .pad).length

/-- What UNPACK8TO5 gives (R108): the bytes of a group, or its illegal pad count. -/
inductive UnpackResult where
  | ok (d : List Byte)
  | bad (p : Nat)
deriving DecidableEq, Repr

/-- The group has a legal pad count. -/
def UnpackResult.isOk : UnpackResult → Bool
  | .ok _ => true
  | .bad _ => false

/-- UNPACK8TO5: a group of 8 entries into 1 to 5 bytes, or `Bad(p)` (R108). -/
def unpack8to5 (u : List ClassEntry) : UnpackResult :=
  match padBytes (padCount u) with
  | some nb => .ok ((List.range nb).map (byteAt (decodeAcc u)))
  | none => .bad (padCount u)

end Sys2Proof.Machine
end

