-- ==== Sys2Proof/Machine/Codec.lean ====
section
/-!
DEFINITION. The command functions of 41_commands.md: ENCODE_FN, DECODE_FN, VALIDATE_FN. Each is a
pure function of the input bytes and the parameters (R157).
-/

namespace Sys2Proof.Machine

open Sys2Proof

/-- A command's result (R132). -/
inductive Result where
  | out (d : List Byte)
  | err (kind : ErrKind) (char : Byte) (pos : Nat)
  | bool (b : Bool)
deriving DecidableEq, Repr

/-- How many bytes COMPLETE writes to OBUF (R132). -/
def Result.outCount : Result → Nat
  | .out d => d.length
  | .err _ _ _ => 0
  | .bool _ => 0

/-- The output of ENCODE: chunk `k` is `s[5k .. 5k+m)`, `m = min(5, n - 5k)`, for `k` below
`ceil(n/5)`; an empty input has no chunk (R140, R141). -/
def encodeBytesOut (s : List Byte) : List Byte :=
  (List.range ((s.length + 4) / 5)).flatMap fun k => pack5to8 ((s.drop (5 * k)).take 5)

/-- ENCODE_FN (R140). -/
def encodeFn (s : List Byte) : Result := .out (encodeBytesOut s)

/-- What the groups of a cleaned sequence decode to (R145). -/
inductive GroupsResult where
  | ok (d : List Byte)
  /-- The first group with an illegal pad count. -/
  | badPadding (g : Nat)
deriving DecidableEq, Repr

/-- `d` in front of what the later groups decode to. -/
def GroupsResult.prepend (d : List Byte) : GroupsResult → GroupsResult
  | .ok d' => .ok (d ++ d')
  | .badPadding g => .badPadding g

/-- Decode `count` groups of `t` from group `g` on, in order, stopping at the first bad one
(R145). -/
def decodeGroups (t : List ClassEntry) : (count g : Nat) → GroupsResult
  | 0, _ => .ok []
  | count + 1, g =>
    match unpack8to5 ((t.drop (8 * g)).take 8) with
    | .bad _ => .badPadding g
    | .ok d => (decodeGroups t count (g + 1)).prepend d

/-- The part of DECODE_FN after a good scan (R145, R146). -/
def decodeCleaned (t : List ClassEntry) : Result :=
  if t.length = 0 then .out []
  else if t.length % 8 ≠ 0 then .err .badLength 0#8 t.length
  else
    match decodeGroups t (t.length / 8) 0 with
    | .ok d => .out d
    | .badPadding g => .err .badPadding 0#8 g

/-- DECODE_FN (R145). -/
def decodeFn (wsSet : List Byte) (s : List Byte) : Result :=
  match scan wsSet s with
  | .err kind char pos => .err kind char pos
  | .ok t => decodeCleaned t

/-- The part of VALIDATE_FN after a good scan (R152, R154). -/
def validateCleaned (strictPad : Bool) (t : List ClassEntry) : Bool :=
  if t.length = 0 then false
  else if t.length % 8 ≠ 0 then false
  else if strictPad then
    (List.range (t.length / 8)).all fun g => (unpack8to5 ((t.drop (8 * g)).take 8)).isOk
  else true

/-- VALIDATE_FN (R152). -/
def validateFn (wsSet : List Byte) (strictPad : Bool) (s : List Byte) : Result :=
  match scan wsSet s with
  | .err _ _ _ => .bool false
  | .ok t => .bool (validateCleaned strictPad t)

/-- The engine's case on `eng_op` (R130). -/
def runCommand (c : Config) (op : Command) (s : List Byte) : Result :=
  match op with
  | .encode => encodeFn s
  | .decode => decodeFn c.wsSet s
  | .validate => validateFn c.wsSet c.valStrictPad s

end Sys2Proof.Machine
end

