-- ==== Sys2Proof/Machine/Operands.lean ====
section
/-!
DEFINITION. The operand forms of a transaction: register offsets (10_state.md R24), buffer
indices (42_host_bus.md R167 to R169), the byte lane of a write (30_encoding.md R73) and the OP
field of a CMD word (R71).
-/

namespace Sys2Proof.Machine

open Sys2Proof

/-- The register at a byte offset; every other offset is unmapped (R24, R166). -/
def regAt (addr : Word) : Option Reg :=
  if addr = 0x00#32 then some .cmd
  else if addr = 0x04#32 then some .status
  else if addr = 0x08#32 then some .inLen
  else if addr = 0x0C#32 then some .outLen
  else if addr = 0x10#32 then some .errChar
  else if addr = 0x14#32 then some .errPos
  else none

/-- An index below the port's size, or nothing (R58, R170). -/
def indexBelow (size : Nat) (addr : Word) : Option Nat :=
  if addr.toNat < size then some addr.toNat else none

/-- `wdata[7:0]`, the byte a byte-port write uses (R73). -/
def byteLane (wdata : Word) : Byte := wdata.extractLsb' 0 8

/-- `OP = w[1:0]` (R71). -/
def opField (w : Word) : BitVec 2 := w.extractLsb' 0 2

/-- The command an OP names; 0b00 names none (R71). -/
def commandOf (op : BitVec 2) : Option Command :=
  if op = 0b01#2 then some .encode
  else if op = 0b10#2 then some .decode
  else if op = 0b11#2 then some .validate
  else none

/-- The OP of a command (R71). -/
def opOf : Command → BitVec 2
  | .encode => 0b01#2
  | .decode => 0b10#2
  | .validate => 0b11#2

end Sys2Proof.Machine
end

