-- ==== Sys2Proof/Machine/Flags.lean ====
section
/-!
DEFINITION. The flags: the STATUS fields (10_state.md R26, R41), their codes and the word a read
of STATUS returns.
-/

namespace Sys2Proof.Machine

open Sys2Proof

/-- The code of an error kind (60_exceptions.md R180). -/
def ErrKind.code : ErrKind → BitVec 3
  | .paddingInMiddle => 1#3
  | .invalidCharacter => 2#3
  | .badLength => 3#3
  | .badPadding => 4#3
  | .badCommand => 5#3

/-- STATUS.ERR_KIND: 0 when no error ended the last completed command (R31). -/
def errKindCode : Option ErrKind → BitVec 3
  | none => 0#3
  | some k => k.code

/-- The STATUS word: ERR_KIND in bits 6:4, VALID 3, ERR 2, DONE 1, BUSY 0, the rest 0
(R26, R160). -/
def State.statusWord (s : State) : Word :=
  0#25 ++ errKindCode s.errKind ++ BitVec.ofBool s.valid ++ BitVec.ofBool s.err ++
    BitVec.ofBool s.done ++ BitVec.ofBool s.busy

/-- Acceptance: CMD.OP is remembered and every STATUS field is cleared (R130). -/
def State.accept (op : BitVec 2) (s : State) : State :=
  { s with lastOp := op, engine := none, done := false, err := false, valid := false,
           errKind := none }

end Sys2Proof.Machine
end

