-- ==== Sys2Proof/Machine/Ops.lean ====
section
/-!
DEFINITION. The named operations the meanings share: buffer bytes, register reads, the response,
completing a command (which is how an error is reported, 60_exceptions.md R186), accepting one,
the engine step, and reset.
-/

namespace Sys2Proof.Machine

open Sys2Proof

/-! ### Buffer bytes -/

/-- The byte at an index; `none` is UNSET (R42). -/
def Memory.get? : Memory → Nat → Option Byte
  | [], _ => none
  | c :: m, a => if c.1 = a then some c.2 else Memory.get? m a

/-- Store a byte, keeping indices strictly rising. -/
def Memory.set : Memory → Nat → Byte → Memory
  | [], a, b => [(a, b)]
  | c :: m, a, b =>
    if a < c.1 then (a, b) :: c :: m
    else if a = c.1 then (a, b) :: m
    else c :: Memory.set m a b

/-- Store a byte sequence from index `j` on: `MemWrite(j, 1, d[j])` in turn (R13, R132). -/
def Memory.setFrom : Memory → (j : Nat) → (d : List Byte) → Memory
  | m, _, [] => m
  | m, j, b :: d => Memory.setFrom (m.set j b) (j + 1) d

/-- `MemRead(i, 1)`, and the host's IBUF read: the byte, or a free draw where it is UNSET
(R42, R212). -/
def State.readIbuf (s : State) (i : Nat) : Byte :=
  (s.ibuf.get? i).getD (Config.freeByte s.draws i)

/-- The host's OBUF read: unspecified while busy and at or above OUT_LEN (R169, R207, R208). -/
def State.readObuf (s : State) (i : Nat) : Byte :=
  if s.busy ∨ s.outLen.toNat ≤ i then Config.freeByte s.draws i
  else (s.obuf.get? i).getD (Config.freeByte s.draws i)

/-- `IBUF[0 .. n)` as the engine reads it (R130). -/
def State.inputBytes (s : State) (n : Nat) : List Byte := (List.range n).map s.readIbuf

/-! ### Registers -/

/-- What a read of a register returns (R160): exact for CMD, STATUS and IN_LEN; a free draw for
the result registers while busy (R207). -/
def State.readReg (s : State) : Reg → Word
  | .cmd => s.lastOp.setWidth 32
  | .status => s.statusWord
  | .inLen => s.inLen
  | .outLen => if s.busy then Config.freeWord s.draws else s.outLen
  | .errChar => if s.busy then Config.freeWord s.draws else s.errChar.setWidth 32
  | .errPos => if s.busy then Config.freeWord s.draws else s.errPos

/-- Store IN_LEN; dropped while busy (R162, R206). -/
def State.writeInLen (wdata : Word) (s : State) : State :=
  if s.busy then s else { s with inLen := wdata }

/-- Store an IBUF byte; dropped while busy (R168, R206). -/
def State.writeIbuf (i : Nat) (b : Byte) (s : State) : State :=
  if s.busy then s else { s with ibuf := s.ibuf.set i b }

/-! ### The response -/

/-- Answer a host transaction and use up this step's draw (R73; log entries 7, 12). -/
def State.respond (rdata : Word) (resp : Resp) (s : State) : State :=
  { s with response := some ⟨rdata, resp⟩, draws := s.draws + 1 }

/-- OKAY to a write. The spec states no rdata for it: a free value (log entry 11). -/
def State.respondWrite (s : State) : State := s.respond (Config.freeWord s.draws) .okay

/-- `(rdata = 0, resp = ERROR)` (R75, R166, R170). -/
def State.respondError (s : State) : State := s.respond 0#32 .error

/-! ### Completion and acceptance -/

/-- OUT_LEN of a result of `n` bytes. The register has 32 bits; where `n` does not fit, the spec
states no value and it is free (log entry 10). -/
def outLenWord (draw n : Nat) : Word :=
  if n < 2 ^ 32 then BitVec.ofNat 32 n else Config.freeWord draw

/-- COMPLETE (R132). OBUF bytes at index OUT_LEN or above are unspecified after every completion
(R38, R132, R149), so they are left UNSET (log entry 9). -/
def State.complete (r : Result) (s : State) : State :=
  match r with
  | .out d =>
    { s with obuf := Memory.setFrom [] 0 d, outLen := outLenWord s.draws d.length, err := false,
             errKind := none, errChar := 0#8, errPos := 0#32, valid := false,
             engine := none, done := true }
  | .err kind char pos =>
    { s with obuf := [], outLen := 0#32, err := true, errKind := some kind, errChar := char,
             errPos := BitVec.ofNat 32 pos, valid := false, engine := none, done := true }
  | .bool b =>
    { s with obuf := [], outLen := 0#32, err := false, errKind := none, errChar := 0#8,
             errPos := 0#32, valid := b, engine := none, done := true }

/-- Complete at once as BadCommand (R131). -/
def State.badCommand (s : State) : State := s.complete (.err .badCommand 0#8 0)

/-- A command goes in flight with the length as it stands (R130). -/
def State.start (c : Command) (s : State) : State := { s with engine := some ⟨c, s.inLen⟩ }

/-- CmdWrite (R130): dropped while busy (R205); else accepted, and started, or completed at once
as BadCommand (R131). -/
def State.cmdWrite (w : Word) (s : State) : State :=
  if s.busy then s
  else
    match commandOf (opField w) with
    | none => (s.accept (opField w)).badCommand
    | some c =>
      if s.config.nIn < s.inLen.toNat then (s.accept (opField w)).badCommand
      else (s.accept (opField w)).start c

/-! ### The engine, and reset -/

/-- The engine's turn (R130). It is enabled only while a command is in flight; a turn that finds
none passes. The two faults are never reached (log entry 14). -/
def engineStep (s : State) : Host.Outcome State Fault Refusal :=
  match s.engine with
  | none => .next s
  | some f =>
    if s.config.nIn < f.len.toNat then .fault .engineReadOutsideIbuf
    else
      let r := runCommand s.config f.op (s.inputBytes f.len.toNat)
      if s.config.nOut < r.outCount then .fault .engineWriteOutsideObuf
      else .next { s.complete r with draws := s.draws + 1 }

/-- The reset event (R200, R201): the reset state, with the parameters, the outside's coming
events and the draw counter, which are not the block's registers (log entry 15). -/
def State.resetEvent (s : State) : State :=
  { State.reset with config := s.config, inputs := s.inputs, draws := s.draws + 1 }

end Sys2Proof.Machine
end

