-- ==== Sys2Proof/Machine/Bus.lean ====
section
/-!
DEFINITION. The meanings of the host bus transactions (42_host_bus.md).
-/

namespace Sys2Proof.Machine

open Sys2Proof

/-- RD (R160, R166). -/
def execRd (addr : Word) (_wdata : Word) (s : State) : Host.Outcome State Fault Refusal :=
  match regAt addr with
  | none => .next s.respondError
  | some r => .next (s.respond (s.readReg r) .okay)

/-- WR (R161, R162, R163, R166). -/
def execWr (addr wdata : Word) (s : State) : Host.Outcome State Fault Refusal :=
  match regAt addr with
  | none => .next s.respondError
  | some .cmd => .next (s.cmdWrite wdata).respondWrite
  | some .inLen => .next (s.writeInLen wdata).respondWrite
  | some .status => .next s.respondWrite
  | some .outLen => .next s.respondWrite
  | some .errChar => .next s.respondWrite
  | some .errPos => .next s.respondWrite

/-- RDB IBUF (R167, R170). -/
def execRdbIbuf (addr : Word) (_wdata : Word) (s : State) : Host.Outcome State Fault Refusal :=
  match indexBelow s.config.nIn addr with
  | none => .next s.respondError
  | some i => .next (s.respond ((s.readIbuf i).setWidth 32) .okay)

/-- WRB IBUF (R168, R170). -/
def execWrbIbuf (addr wdata : Word) (s : State) : Host.Outcome State Fault Refusal :=
  match indexBelow s.config.nIn addr with
  | none => .next s.respondError
  | some i => .next (s.writeIbuf i (byteLane wdata)).respondWrite

/-- RDB OBUF (R169, R170). -/
def execRdbObuf (addr : Word) (_wdata : Word) (s : State) : Host.Outcome State Fault Refusal :=
  match indexBelow s.config.nOut addr with
  | none => .next s.respondError
  | some i => .next (s.respond ((s.readObuf i).setWidth 32) .okay)

/-- A write to the read-only OBUF port (R170). -/
def execIllegalWrbObuf (_addr _wdata : Word) (s : State) : Host.Outcome State Fault Refusal :=
  .next s.respondError

/-- A read of no port (R170). -/
def execIllegalPort3Rd (_addr _wdata : Word) (s : State) : Host.Outcome State Fault Refusal :=
  .next s.respondError

/-- A write to no port (R170). -/
def execIllegalPort3Wr (_addr _wdata : Word) (s : State) : Host.Outcome State Fault Refusal :=
  .next s.respondError

/-- A register access narrower than a word, of either direction: ERROR under R166 (R165). -/
def subWordAccess (_we : Bool) (_addr : Word) (s : State) : Host.Outcome State Fault Refusal :=
  .next s.respondError

end Sys2Proof.Machine
end

