-- ==== Sys2Proof/Machine/Commands.lean ====
section
/-!
DEFINITION. The meanings of the command words (41_commands.md): a CMD write word `w` is the host
register write of `w` to offset 0x00 (30_encoding.md R71, R74). The result of an accepted
command is written by the engine's step (`engineStep`, R130).
-/

namespace Sys2Proof.Machine

open Sys2Proof

/-- ENCODE, OP = 0b01 (R130, R140). -/
def execEncode (reserved : BitVec 30) (s : State) : Host.Outcome State Fault Refusal :=
  .next (s.cmdWrite (commandWord reserved 0b01#2)).respondWrite

/-- DECODE, OP = 0b10 (R130, R145). -/
def execDecode (reserved : BitVec 30) (s : State) : Host.Outcome State Fault Refusal :=
  .next (s.cmdWrite (commandWord reserved 0b10#2)).respondWrite

/-- VALIDATE, OP = 0b11 (R130, R152). -/
def execValidate (reserved : BitVec 30) (s : State) : Host.Outcome State Fault Refusal :=
  .next (s.cmdWrite (commandWord reserved 0b11#2)).respondWrite

/-- BADCMD, OP = 0b00 (R131). -/
def execBadcmd (reserved : BitVec 30) (s : State) : Host.Outcome State Fault Refusal :=
  .next (s.cmdWrite (commandWord reserved 0b00#2)).respondWrite

end Sys2Proof.Machine
end

