-- ==== Sys2Proof/Machine/Dispatch.lean ====
section
/-!
DEFINITION. One arm per instruction, each one direct call of its meaning.
-/

namespace Sys2Proof.Machine

open Sys2Proof

def exec (i : Instr) (s : State) : Host.Outcome State Fault Refusal :=
  match i with
  | .encode reserved => Sys2Proof.Machine.execEncode reserved s
  | .decode reserved => Sys2Proof.Machine.execDecode reserved s
  | .validate reserved => Sys2Proof.Machine.execValidate reserved s
  | .badcmd reserved => Sys2Proof.Machine.execBadcmd reserved s
  | .rd addr wdata => Sys2Proof.Machine.execRd addr wdata s
  | .wr addr wdata => Sys2Proof.Machine.execWr addr wdata s
  | .rdbIbuf addr wdata => Sys2Proof.Machine.execRdbIbuf addr wdata s
  | .wrbIbuf addr wdata => Sys2Proof.Machine.execWrbIbuf addr wdata s
  | .rdbObuf addr wdata => Sys2Proof.Machine.execRdbObuf addr wdata s
  | .illegalWrbObuf addr wdata => Sys2Proof.Machine.execIllegalWrbObuf addr wdata s
  | .illegalPort3Rd addr wdata => Sys2Proof.Machine.execIllegalPort3Rd addr wdata s
  | .illegalPort3Wr addr wdata => Sys2Proof.Machine.execIllegalPort3Wr addr wdata s

end Sys2Proof.Machine
end

