-- ==== Sys2Proof/Machine/Step.lean ====
section
/-!
DEFINITION. One step: the next event of the outside (10_state.md R20; 70_reset_and_hazards.md
R200), or, where none is listed, the engine's turn (R211) or idling (R196).
-/

namespace Sys2Proof.Machine

open Sys2Proof

/-- One step of the block. With no event listed, a command in flight completes (R211) and an idle
block keeps everything (R196; `engineStep` passes). -/
def step (s : State) : Host.Outcome State Fault Refusal :=
  match s.inputs with
  | [] => engineStep s
  | .host w :: rest => exec (decode w) { s with inputs := rest }
  | .subWord we addr :: rest => subWordAccess we addr { s with inputs := rest }
  | .engineTurn :: rest => engineStep { s with inputs := rest }
  | .reset :: rest => .next (State.resetEvent { s with inputs := rest })

/-- `s` with an instruction as the next event of the outside: the very next step runs it
(log entry 2). A byte string the layout rejects is no instruction, and changes nothing. -/
def State.withFetchWord (s : State) (nbits w : Nat) : State :=
  match wordOfBytes (tableBytes nbits w) with
  | .ok iw => { s with inputs := .host iw :: s.inputs }
  | .error _ => s

end Sys2Proof.Machine
end

