-- ==== Sys2Proof/Machine/HostPrograms.lean ====
section
/-!
DEFINITION. The pseudo-instructions of 30_encoding.md R83, as the instructions they stand for.
-/

namespace Sys2Proof.Machine

open Sys2Proof

/-- A host program so far: the state, and the replies its transactions got, oldest first. -/
structure HostRun where
  state : State
  replies : List Response
deriving DecidableEq, Repr

/-- One more transaction of a host program (42_host_bus.md R171). -/
def HostRun.issue (i : Instr) (r : HostRun) : Host.Outcome HostRun Fault Refusal :=
  match exec i r.state with
  | .next t => .next ⟨t, r.replies ++ t.response.toList⟩
  | .fault e => .fault e
  | .refused e => .refused e

/-- Instructions in order, one host step each (R171). DESIGN CHOICE (log entry 24): no turn of the
engine and no reset falls between them; the spec leaves the agents' order open (10_state.md R20). -/
def execAll : List Instr → HostRun → Host.Outcome HostRun Fault Refusal
  | [], r => .next r
  | i :: is, r =>
    match r.issue i with
    | .next r' => execAll is r'
    | .fault e => .fault e
    | .refused e => .refused e

/-- `ENCODE`: `WR REG[CMD], 0x1`. -/
def pseudoEncode : Instr := .wr 0x00#32 0x1#32

/-- `DECODE`: `WR REG[CMD], 0x2`. -/
def pseudoDecode : Instr := .wr 0x00#32 0x2#32

/-- `VALIDATE`: `WR REG[CMD], 0x3`. -/
def pseudoValidate : Instr := .wr 0x00#32 0x3#32

/-- `WRB IBUF[k], b[0]`, `WRB IBUF[k+1], b[1]`, in order. -/
def writeBytesFrom : (k : Nat) → (b : List Byte) → List Instr
  | _, [] => []
  | k, c :: b => .wrbIbuf (BitVec.ofNat 32 k) (c.setWidth 32) :: writeBytesFrom (k + 1) b

/-- `LOAD` and `LOADX`: the bytes, then IN_LEN. -/
def loadX (b : List Byte) : List Instr :=
  writeBytesFrom 0 b ++ [.wr 0x08#32 (BitVec.ofNat 32 b.length)]

/-- One read of `POLL`. -/
def pollRead : Instr := .rd 0x04#32 0#32

/-- `POLL` ends at a read whose BUSY bit is 0. -/
def pollEnds (r : Response) : Bool := !r.rdata.getLsbD 0

/-- What `POLL` comes to: the state, and the last read's `rdata` once a read has ended it. -/
structure PollRun where
  state : State
  result : Option Word
deriving DecidableEq, Repr

/-- `POLL`: reads of STATUS, repeated until one has BUSY = 0. `turns` says before which reads the
engine takes its turn (10_state.md R20; log entry 23); where it is over first, `POLL` is still
going. -/
def poll : (turns : List Bool) → State → Host.Outcome PollRun Fault Refusal
  | [], s => .next ⟨s, none⟩
  | turn :: turns, s =>
    match (if turn then engineStep s else .next s) with
    | .fault e => .fault e
    | .refused e => .refused e
    | .next t =>
      match exec pollRead t with
      | .fault e => .fault e
      | .refused e => .refused e
      | .next u =>
        match u.response with
        | none => poll turns u
        | some reply =>
          if pollEnds reply then .next ⟨u, some reply.rdata⟩ else poll turns u

/-- `RDB OBUF[k]` for `k` below `n`, in order. -/
def readBytes (n : Nat) : List Instr :=
  (List.range n).map fun k => .rdbObuf (BitVec.ofNat 32 k) 0#32

/-- `READOUT`: OUT_LEN, then as many bytes of OBUF as that read says. The replies are OUT_LEN's,
then the bytes'. No turn of the engine and no reset falls between the reads (log entry 24). -/
def readout (s : State) : Host.Outcome HostRun Fault Refusal :=
  match HostRun.issue (.rd 0x0C#32 0#32) ⟨s, []⟩ with
  | .fault e => .fault e
  | .refused e => .refused e
  | .next r =>
    match r.state.response with
    | none => .next r
    | some reply => execAll (readBytes reply.rdata.toNat) r

end Sys2Proof.Machine
end

