-- ==== Sys2Proof/Safety.lean ====
section
/-!
DEFINITION. The terms claims use: the invariant of the block, what two states share, and what an
input buffer holds.
-/

namespace Sys2Proof.Machine

open Sys2Proof

/-! ### The invariant -/

/-- R8: N_IN in range, and no WS_SET byte is classified DATA or PAD. -/
abbrev State.ConfigOk (s : State) : Prop :=
  1 ≤ s.config.nIn ∧ s.config.nIn < 2 ^ 32 ∧
    ∀ b ∈ s.config.wsSet, (classOf s.config.wsSet b).cls = .ws

/-- Both buffers in canonical form and inside their ports (R58), and every result byte written
(R33, R38). -/
abbrev State.BuffersOk (s : State) : Prop :=
  s.ibuf.wf ∧ s.obuf.wf ∧ (∀ c ∈ s.ibuf, c.1 < s.config.nIn) ∧
    (∀ c ∈ s.obuf, c.1 < s.config.nOut) ∧
    ∀ i < s.outLen.toNat, (s.obuf.get? i).isSome

/-- A command in flight has a good length, the IN_LEN as it stands, and CMD reads its OP
(R130, R205, R206). -/
abbrev State.EngineOk (s : State) : Prop :=
  ∀ f ∈ s.engine.toList, f.len.toNat ≤ s.config.nIn ∧ f.len = s.inLen ∧ s.lastOp = opOf f.op

/-- STATUS (R26 to R31): BUSY and DONE never together; ERR exactly when ERR_KIND is not 0; an
unfinished command shows nothing; VALID only after VALIDATE, a codec error only after DECODE. -/
abbrev State.StatusOk (s : State) : Prop :=
  (s.busy = true → s.done = false) ∧ s.err = s.errKind.isSome ∧
    (s.done = false → s.err = false ∧ s.valid = false) ∧
    (s.valid = true → s.err = false ∧ s.lastOp = 0b11#2) ∧
    (s.err = true → s.errKind = some .badCommand ∨ s.lastOp = 0b10#2)

/-- The result registers of a completed command (R33, R34, R35), and an idle block no command has
reached yet (R26, R43). -/
abbrev State.ResultOk (s : State) : Prop :=
  (s.err = true → s.outLen = 0#32 ∧ s.obuf = []) ∧ (s.valid = true → s.outLen = 0#32) ∧
    (s.done = true → s.errKind ≠ some .paddingInMiddle → s.errKind ≠ some .invalidCharacter →
      s.errChar = 0#8) ∧
    (s.done = true → (s.errKind = none ∨ s.errKind = some .badCommand) → s.errPos = 0#32) ∧
    (s.busy = false → s.done = false → s.lastOp = 0b00#2 ∧ s.outLen = 0#32 ∧ s.errChar = 0#8 ∧
      s.errPos = 0#32)

/-- The invariant. -/
abbrev State.Inv (s : State) : Prop :=
  s.ConfigOk ∧ s.BuffersOk ∧ s.EngineOk ∧ s.StatusOk ∧ s.ResultOk

/-! ### What two states share -/

/-- Every register field of R42 is the same. -/
abbrev SameRegisters (s t : State) : Prop :=
  t.lastOp = s.lastOp ∧ t.done = s.done ∧ t.err = s.err ∧ t.valid = s.valid ∧
    t.errKind = s.errKind ∧ t.inLen = s.inLen ∧ t.outLen = s.outLen ∧ t.errChar = s.errChar ∧
    t.errPos = s.errPos ∧ t.engine = s.engine

/-- Every IBUF byte reads as before. -/
abbrev SameIbuf (s t : State) : Prop := ∀ a, t.ibuf.get? a = s.ibuf.get? a

/-- Every OBUF byte reads as before. -/
abbrev SameObuf (s t : State) : Prop := ∀ a, t.obuf.get? a = s.obuf.get? a

/-- The parameters and the outside's coming events are the same. -/
abbrev SameSurroundings (s t : State) : Prop := t.config = s.config ∧ t.inputs = s.inputs

/-! ### Replies -/

/-- The state `t` after the block gives the host its reply (R73). -/
abbrev State.replied (t : State) (rdata : Word) (resp : Resp) : State :=
  { t with response := some ⟨rdata, resp⟩, draws := t.draws + 1 }

/-- The instruction answers `(rdata, resp)` and changes nothing of the block. -/
abbrev Replies (i : Instr) (s : State) (rdata : Word) (resp : Resp) : Prop :=
  exec i s = .next (s.replied rdata resp)

/-- The instruction answers OKAY and leaves the block as in `t`. The spec states no rdata for a
write (log entry 11). -/
abbrev AcknowledgesAs (i : Instr) (s t : State) : Prop :=
  ∃ rdata, exec i s = .next (t.replied rdata .okay)

/-! ### Inputs and results -/

/-- IBUF and IN_LEN hold the input `b` (R204). -/
abbrev State.HoldsInput (s : State) (b : List Byte) : Prop :=
  s.inLen.toNat = b.length ∧ ∀ j < b.length, s.ibuf.get? j = b[j]?

/-- The block reports a completed command without error and OBUF holds `d` (R33, R132). OUT_LEN
is `|d|` where 32 bits hold it. -/
abbrev State.ReportsOutput (s : State) (d : List Byte) : Prop :=
  s.busy = false ∧ s.done = true ∧ s.err = false ∧ s.valid = false ∧ s.errKind = none ∧
    (d.length < 2 ^ 32 → s.outLen.toNat = d.length) ∧ s.errChar = 0#8 ∧ s.errPos = 0#32 ∧
    ∀ j < d.length, s.obuf.get? j = d[j]?

/-- The block reports an error (R132, R181). -/
abbrev State.ReportsError (s : State) (kind : ErrKind) (char : Byte) (pos : Nat) : Prop :=
  s.busy = false ∧ s.done = true ∧ s.err = true ∧ s.valid = false ∧ s.errKind = some kind ∧
    s.outLen = 0#32 ∧ s.errChar = char ∧ s.errPos.toNat = pos

/-- The block reports a VALIDATE result (R132, R152). -/
abbrev State.ReportsValid (s : State) (b : Bool) : Prop :=
  s.busy = false ∧ s.done = true ∧ s.err = false ∧ s.valid = b ∧ s.errKind = none ∧
    s.outLen = 0#32 ∧ s.errChar = 0#8 ∧ s.errPos = 0#32

/-- The block reports the result `r`. -/
def State.Reports (s : State) : Result → Prop
  | .out d => s.ReportsOutput d
  | .err kind char pos => s.ReportsError kind char pos
  | .bool b => s.ReportsValid b

/-- An input byte a scan stops at: INVALID, or DATA after a PAD (R184, item 2). -/
def Offends (wsSet : List Byte) (s : List Byte) (i : Nat) : Prop :=
  ∃ c, s[i]? = some c ∧
    ((classOf wsSet c).cls = .invalid ∨
      ((classOf wsSet c).cls = .data ∧
        ∃ j < i, ∃ p, s[j]? = some p ∧ (classOf wsSet p).cls = .pad))

/-- `lower` of R150. -/
def lower (c : Byte) : Byte := if 0x41#8 ≤ c ∧ c ≤ 0x5A#8 then c + 0x20#8 else c

/-- `n` steps, stopping at a fault or refusal. -/
def runSteps : Nat → State → Host.Outcome State Fault Refusal
  | 0, s => .next s
  | n + 1, s =>
    match step s with
    | .next t => runSteps n t
    | .fault r => .fault r
    | .refused r => .refused r

/-- The instruction requests a command: a CMD write (R25, R74). -/
def requestsCommand : Instr → Bool
  | .encode _ | .decode _ | .validate _ | .badcmd _ => true
  | .wr addr _ => addr == 0#32
  | .rd _ _ | .rdbIbuf _ _ | .wrbIbuf _ _ | .rdbObuf _ _ => false
  | .illegalWrbObuf _ _ | .illegalPort3Rd _ _ | .illegalPort3Wr _ _ => false

/-- The instruction only asks, or is answered with ERROR: it writes nothing (R57, R75). -/
def writesNothing : Instr → Bool
  | .rd _ _ | .rdbIbuf _ _ | .rdbObuf _ _ => true
  | .illegalWrbObuf _ _ | .illegalPort3Rd _ _ | .illegalPort3Wr _ _ => true
  | .encode _ | .decode _ | .validate _ | .badcmd _ | .wr _ _ | .wrbIbuf _ _ => false

end Sys2Proof.Machine
end

