-- ==== Sys2Proof/Certificates/Slice0/Obligations.lean ====
section
/-!
DEFINITION. The statements for the provers. Each docstring names the rule of the spec it
formalises, or the model's choice it rests on.
-/

open Sys2Proof Sys2Proof.Machine

/-! ### Encoding -/

/-- 30_encoding.md R71, R73, R74: no bit of an encoding is dropped. The byte layout is the
model's choice (log entry 4). -/
def Obligations.DecodeEncodeRoundTrip : Prop :=
  ∀ i : Instr, decodeBytes (encodeBytes i) = .ok i

/-- The other direction: each byte string the decoder takes is the encoding of what it reads. The
byte layout is the model's choice (log entry 4). -/
def Obligations.EncodeDecodeRoundTrip : Prop :=
  ∀ (bs : List Byte) (i : Instr), decodeBytes bs = .ok i → encodeBytes i = bs

/-- Words written out from R71 and R74 decode to the row they stand for. -/
def Obligations.KnownWordsDecode : Prop :=
  decode (.command 0x00000001#32) = .encode 0#30 ∧
  decode (.command 0x00000002#32) = .decode 0#30 ∧
  decode (.command 0x00000003#32) = .validate 0#30 ∧
  decode (.command 0x00000000#32) = .badcmd 0#30 ∧
  decode (.command 0xFFFFFFFD#32) = .encode 0x3FFFFFFF#30 ∧
  decode (.transaction 0b000#3 0x0000000C#32 0#32) = .rd 0x0000000C#32 0#32 ∧
  decode (.transaction 0b011#3 0x00000002#32 0x0000006F#32) = .wrbIbuf 0x00000002#32 0x0000006F#32 ∧
  decode (.transaction 0b101#3 0#32 0x00000041#32) = .illegalWrbObuf 0#32 0x00000041#32

/-- R71, R72, R74, R75: exactly one row of the opcode table fits a host word, and the decoder
reads that row's instruction. -/
def Obligations.OneTableRowFitsEachWord : Prop :=
  ∀ w : InstrWord,
    (opcodeTable.filter (·.fits w)).map OpcodeRow.mnemonic = [(decode w).mnemonic]

/-- 10_state.md R20: a step given a host word runs the instruction it decodes to; placed by
withFetchWord, a word that decodes is the very next one run. A step in the engine's turn, and one
with no event listed, is `engineStep` (41_commands.md R130, 70_reset_and_hazards.md R211). Where the
events stand is the model's choice (log entries 1, 2, 18). -/
def Obligations.StepRunsDecodedInstruction : Prop :=
  (∀ (s : State) (w : InstrWord) (rest : List Event), s.inputs = .host w :: rest →
    step s = exec (decode w) { s with inputs := rest }) ∧
  (∀ (s : State) (nbits w : Nat) (i : Instr), decodeTableWord nbits w = some i →
    step (s.withFetchWord nbits w) = exec i s) ∧
  (∀ s : State, s.inputs = [] → step s = engineStep s) ∧
  (∀ (s : State) (rest : List Event), s.inputs = .engineTurn :: rest →
    step s = engineStep { s with inputs := rest })

/-- R71, R74: a CMD write word `w` is the register write of `w` to offset 0x00. The CMD word as a
format of its own is the model's reading of the opcode table (log entry 3). -/
def Obligations.CommandWordIsWriteToOffsetZero : Prop :=
  ∀ (w : Word) (s : State), exec (decode (.command w)) s = exec (.wr 0x00#32 w) s

/-! ### Datapath -/

/-- 40_datapath.md R100, R102, R103: the alphabet; the entry of every byte; CLASS inverts ALPHA and
ignores case. -/
def Obligations.ClassInvertsAlphaAndIgnoresCase : Prop :=
  (∀ v : Symbol, (alpha v).toNat = if v.toNat ≤ 25 then 0x41 + v.toNat else 0x32 + (v.toNat - 26)) ∧
  (∀ (wsSet : List Byte) (c : Byte),
    let n := c.toNat
    let entry := classOf wsSet c
    (0x41 ≤ n ∧ n ≤ 0x5A → entry.cls = .data ∧ entry.value.toNat = n - 0x41) ∧
    (0x61 ≤ n ∧ n ≤ 0x7A → entry.cls = .data ∧ entry.value.toNat = n - 0x61) ∧
    (0x32 ≤ n ∧ n ≤ 0x37 → entry.cls = .data ∧ entry.value.toNat = n - 0x32 + 26) ∧
    (n = 0x3D → entry = ⟨.pad, 0#5⟩) ∧
    (¬ (0x41 ≤ n ∧ n ≤ 0x5A) → ¬ (0x61 ≤ n ∧ n ≤ 0x7A) → ¬ (0x32 ≤ n ∧ n ≤ 0x37) → n ≠ 0x3D →
      (c ∈ wsSet → entry = ⟨.ws, 0#5⟩) ∧ (c ∉ wsSet → entry = ⟨.invalid, 0#5⟩))) ∧
  (∀ (wsSet : List Byte) (v : Symbol), classOf wsSet (alpha v) = ⟨.data, v⟩) ∧
  (∀ (wsSet : List Byte) (c : Byte), 0x41#8 ≤ c → c ≤ 0x5A#8 →
    classOf wsSet (c + 0x20#8) = classOf wsSet c)

/-- 30_encoding.md R77, 40_datapath.md R104, R105, 41_commands.md R140: the bits each symbol of an
encode chunk draws on, a missing byte contributing zeros; a chunk's characters are ALPHA of its
significant symbols, then `'='`; ENCODE's output is its chunks' characters, chunk after chunk. -/
def Obligations.EncodeSymbolsDrawInputBits : Prop :=
  (∀ b : List Byte,
    let at' (k : Nat) : Byte := if h : k < b.length then b[k] else 0#8
    symbolAt (encodeAcc b) 0 = (at' 0).extractLsb' 3 5 ∧
    symbolAt (encodeAcc b) 1 = (at' 0).extractLsb' 0 3 ++ (at' 1).extractLsb' 6 2 ∧
    symbolAt (encodeAcc b) 2 = (at' 1).extractLsb' 1 5 ∧
    symbolAt (encodeAcc b) 3 = (at' 1).extractLsb' 0 1 ++ (at' 2).extractLsb' 4 4 ∧
    symbolAt (encodeAcc b) 4 = (at' 2).extractLsb' 0 4 ++ (at' 3).extractLsb' 7 1 ∧
    symbolAt (encodeAcc b) 5 = (at' 3).extractLsb' 2 5 ∧
    symbolAt (encodeAcc b) 6 = (at' 3).extractLsb' 0 2 ++ (at' 4).extractLsb' 5 3 ∧
    symbolAt (encodeAcc b) 7 = (at' 4).extractLsb' 0 5) ∧
  (∀ (b : List Byte) (sig : Nat), (b.length, sig) ∈ [(1, 2), (2, 4), (3, 5), (4, 7), (5, 8)] →
    sigCount b.length = sig ∧ (pack5to8 b).length = 8 ∧
    ∀ i < 8, (pack5to8 b)[i]? =
      some (if i < sig then alpha (symbolAt (encodeAcc b) i) else 0x3D#8)) ∧
  (∀ s : List Byte, encodeFn s = .out ((List.range ((s.length + 4) / 5)).flatMap fun k =>
    pack5to8 ((s.drop (5 * k)).take 5)))

/-- R78, R106, R108: the accumulator of a group is its eight symbol values, the first in bits
39:35. Pad counts 2, 5, 7 and 8 are bad; at each other one the group gives the accumulator's high
bytes, as many as the table of R106 says, whatever the bits below them. -/
def Obligations.DecodeAccumulatorLayout : Prop :=
  ∀ e0 e1 e2 e3 e4 e5 e6 e7 : ClassEntry,
    let group := [e0, e1, e2, e3, e4, e5, e6, e7]
    let acc : BitVec 40 :=
      e0.value ++ e1.value ++ e2.value ++ e3.value ++ e4.value ++ e5.value ++ e6.value ++ e7.value
    let pads := group.countP fun e => e.cls = .pad
    decodeAcc group = acc ∧
    (pads ∈ [2, 5, 7, 8] → unpack8to5 group = .bad pads) ∧
    (∀ nb, (pads, nb) ∈ [(0, 5), (1, 4), (3, 3), (4, 2), (6, 1)] →
      unpack8to5 group = .ok ((List.range nb).map fun j => acc.extractLsb' (32 - 8 * j) 8))

/-- R109: unpacking a packed chunk gives it back, with `8 - SIGCOUNT(m)` pads. -/
def Obligations.UnpackInvertsPack : Prop :=
  ∀ (wsSet b : List Byte), 1 ≤ b.length → b.length ≤ 5 →
    unpack8to5 ((pack5to8 b).map (classOf wsSet)) = .ok b ∧
    padCount ((pack5to8 b).map (classOf wsSet)) = 8 - sigCount b.length

/-- R107: a cleaned sequence is the input's entries without the whitespace ones, all DATA before
all PAD. -/
def Obligations.CleanedSequenceShape : Prop :=
  ∀ (wsSet s : List Byte) (t : List ClassEntry), scan wsSet s = .ok t →
    t = (s.map (classOf wsSet)).filter (fun e => e.cls ≠ .ws) ∧
    ∃ (data : List ClassEntry) (pads : Nat),
      t = data ++ List.replicate pads ⟨.pad, 0#5⟩ ∧ ∀ e ∈ data, e.cls = .data

/-- R107, R184 item 2: a scan stops at the lowest index that offends, InvalidCharacter where the
byte there is INVALID and PaddingInMiddle where it is DATA; it succeeds when none offends. -/
def Obligations.ScanReportsLowestOffendingByte : Prop :=
  ∀ wsSet s : List Byte,
    (∀ t, scan wsSet s = .ok t → ∀ i, ¬ Offends wsSet s i) ∧
    (∀ kind char pos, scan wsSet s = .err kind char pos →
      s[pos]? = some char ∧ Offends wsSet s pos ∧ (∀ j < pos, ¬ Offends wsSet s j) ∧
      ((classOf wsSet char).cls = .invalid ∧ kind = .invalidCharacter ∨
        (classOf wsSet char).cls = .data ∧ kind = .paddingInMiddle))

/-! ### Command functions -/

/-- 41_commands.md R142. -/
def Obligations.EncodeLengthLaw : Prop :=
  ∀ s : List Byte, ∃ d, encodeFn s = .out d ∧ d.length = (s.length + 4) / 5 * 8

/-- R143: alphabet bytes, then `8 - SIGCOUNT` of the last chunk's length of `'='`, a number in
{0, 1, 3, 4, 6}, 0 when `n` is a multiple of 5. -/
def Obligations.EncodeCharacterLaw : Prop :=
  ∀ s : List Byte, ∃ d, encodeFn s = .out d ∧
    ∃ (symbols : List Symbol) (pads : Nat),
      d = symbols.map alpha ++ List.replicate pads padChar ∧
      (s ≠ [] → pads = 8 - sigCount (s.length - 5 * ((s.length + 4) / 5 - 1))) ∧
      pads ∈ [0, 1, 3, 4, 6] ∧ (s.length % 5 = 0 → pads = 0)

/-- R147: padding stands only in the last group, whose pad count gives the output length. -/
def Obligations.DecodeLengthLaw : Prop :=
  ∀ (wsSet s : List Byte) (t : List ClassEntry) (d : List Byte) (g : Nat),
    scan wsSet s = .ok t → t.length = 8 * (g + 1) → decodeFn wsSet s = .out d →
    (∀ e ∈ t.take (8 * g), e.cls = .data) ∧
    ∃ nb, padBytes (padCount (t.drop (8 * g))) = some nb ∧ d.length = 5 * g + nb

/-- R150: DECODE ignores the case of its input, but for the byte an error at a letter shows. -/
def Obligations.DecodeIgnoresCase : Prop :=
  ∀ wsSet s : List Byte,
    decodeFn wsSet (s.map lower) =
      match decodeFn wsSet s with
      | .out d => .out d
      | .err kind char pos => .err kind (lower char) pos
      | .bool b => .bool b

/-- R151: two inputs that differ only in WS_SET bytes decode alike where one decodes. The premise
on WS_SET is R8's. -/
def Obligations.DecodeIgnoresWhitespace : Prop :=
  ∀ wsSet s s' d : List Byte, (∀ b ∈ wsSet, (classOf wsSet b).cls = .ws) →
    s'.filter (fun c => c ∉ wsSet) = s.filter (fun c => c ∉ wsSet) →
    decodeFn wsSet s = .out d → decodeFn wsSet s' = .out d

/-- R146, R152: an input of whitespace only, or none, decodes to nothing and is not valid. -/
def Obligations.EmptyCleanedInput : Prop :=
  ∀ (wsSet s : List Byte) (strict : Bool), (∀ c ∈ s, (classOf wsSet c).cls = .ws) →
    decodeFn wsSet s = .out [] ∧ validateFn wsSet strict s = .bool false

/-- R145, R182, R184: DECODE reports an error exactly where one of these holds, in their order of
priority: the scan's own; a bad length, after a good scan; the lowest group with an illegal pad
count, after a good length. -/
def Obligations.DecodeErrorPriority : Prop :=
  ∀ (wsSet s : List Byte) (kind : ErrKind) (char : Byte) (pos : Nat),
    decodeFn wsSet s = .err kind char pos ↔
    scan wsSet s = .err kind char pos ∨
    ∃ t, scan wsSet s = .ok t ∧ char = 0#8 ∧
      (kind = .badLength ∧ pos = t.length ∧ t.length % 8 ≠ 0 ∨
        kind = .badPadding ∧ t.length % 8 = 0 ∧ pos < t.length / 8 ∧
          padBytes (padCount ((t.drop (8 * pos)).take 8)) = none ∧
          ∀ g < pos, padBytes (padCount ((t.drop (8 * g)).take 8)) ≠ none)

/-- R145: where the scan, the length and every group are good, DECODE gives the groups' bytes, group
after group. -/
def Obligations.DecodeJoinsGroups : Prop :=
  ∀ (wsSet s : List Byte) (t : List ClassEntry) (bytes : Nat → List Byte),
    scan wsSet s = .ok t → t.length % 8 = 0 →
    (∀ g < t.length / 8, unpack8to5 ((t.drop (8 * g)).take 8) = .ok (bytes g)) →
    decodeFn wsSet s = .out ((List.range (t.length / 8)).flatMap bytes)

/-- R153: Validate and Decode agree, except that nothing decoded is not valid. -/
def Obligations.ValidateDecodeAgreement : Prop :=
  ∀ wsSet s : List Byte,
    (validateFn wsSet true s = .bool true ↔ ∃ d, decodeFn wsSet s = .out d ∧ d ≠ []) ∧
    (validateFn wsSet true s = .bool true ↔
      (∃ d, decodeFn wsSet s = .out d) ∧ ∃ t, scan wsSet s = .ok t ∧ t.length ≠ 0)

/-- R154: with VAL_STRICT_PAD = 0, VALIDATE differs exactly where DECODE gives BadPadding, and
there it answers 1. -/
def Obligations.LenientValidateDiffersAtBadPadding : Prop :=
  ∀ wsSet s : List Byte,
    ((∃ char pos, decodeFn wsSet s = .err .badPadding char pos) →
      validateFn wsSet false s = .bool true ∧ validateFn wsSet true s = .bool false) ∧
    ((¬ ∃ char pos, decodeFn wsSet s = .err .badPadding char pos) →
      validateFn wsSet false s = validateFn wsSet true s)

/-- R155: DECODE of an ENCODE gives the bytes back. -/
def Obligations.DecodeInvertsEncode : Prop :=
  ∀ wsSet b : List Byte, ∃ e, encodeFn b = .out e ∧ decodeFn wsSet e = .out b

/-- R156. -/
def Obligations.ValidateAcceptsEncodings : Prop :=
  ∀ wsSet b : List Byte, ∃ e, encodeFn b = .out e ∧
    (0 < b.length → validateFn wsSet true e = .bool true) ∧
    (b = [] → validateFn wsSet true e = .bool false)

/-! ### Reset -/

/-- 10_state.md R43, the spec's fields of the reset state. -/
def Obligations.ResetValues : Prop :=
  let r := State.reset
  r.lastOp = 0b00#2 ∧ r.busy = false ∧ r.done = false ∧ r.err = false ∧ r.valid = false ∧
  errKindCode r.errKind = 0#3 ∧ r.inLen = 0#32 ∧ r.outLen = 0#32 ∧ r.errChar = 0#8 ∧
  r.errPos = 0#32 ∧ r.doneO = false ∧ r.engine = none ∧
  (∀ i, r.ibuf.get? i = none) ∧ (∀ i, r.obuf.get? i = none)

/-- 70_reset_and_hazards.md R200, R201: the reset event sets every register of R42 to its reset
value and every buffer byte to UNSET, from any state, a command in flight included. The event, and
what it keeps of the model's own fields, are the model's choice (log entries 1, 15). -/
def Obligations.ResetEventFromAnyState : Prop :=
  ∀ (s : State) (rest : List Event), s.inputs = .reset :: rest →
    ∃ t, step s = .next t ∧ SameRegisters State.reset t ∧ t.busy = false ∧ t.done = false ∧
      (∀ i, t.ibuf.get? i = none) ∧ (∀ i, t.obuf.get? i = none) ∧
      t.config = s.config ∧ t.inputs = rest

/-! ### Host bus -/

/-- R26, R180: the bits of STATUS and the code of each error kind; the output `done_o` (R36). -/
def Obligations.StatusWordFields : Prop :=
  ∀ s : State,
    s.statusWord.getLsbD 0 = s.busy ∧ s.statusWord.getLsbD 1 = s.done ∧
    s.statusWord.getLsbD 2 = s.err ∧ s.statusWord.getLsbD 3 = s.valid ∧
    s.statusWord.extractLsb' 4 3 = errKindCode s.errKind ∧
    (s.errKind = none → s.statusWord.extractLsb' 4 3 = 0#3) ∧
    (s.errKind = some .paddingInMiddle → s.statusWord.extractLsb' 4 3 = 1#3) ∧
    (s.errKind = some .invalidCharacter → s.statusWord.extractLsb' 4 3 = 2#3) ∧
    (s.errKind = some .badLength → s.statusWord.extractLsb' 4 3 = 3#3) ∧
    (s.errKind = some .badPadding → s.statusWord.extractLsb' 4 3 = 4#3) ∧
    (s.errKind = some .badCommand → s.statusWord.extractLsb' 4 3 = 5#3) ∧
    s.statusWord.extractLsb' 7 25 = 0#25 ∧ s.doneO = s.statusWord.getLsbD 1

/-- 42_host_bus.md R160: what a register read returns. It changes nothing of the block. The form
of the free value is the model's choice (log entry 7). -/
def Obligations.RegisterReadReturns : Prop :=
  ∀ (s : State) (wdata : Word),
    Replies (.rd 0x00#32 wdata) s (s.lastOp.setWidth 32) .okay ∧
    Replies (.rd 0x04#32 wdata) s s.statusWord .okay ∧
    Replies (.rd 0x08#32 wdata) s s.inLen .okay ∧
    Replies (.rd 0x0C#32 wdata) s
      (if s.busy then Config.freeWord s.draws else s.outLen) .okay ∧
    Replies (.rd 0x10#32 wdata) s
      (if s.busy then Config.freeWord s.draws else s.errChar.setWidth 32) .okay ∧
    Replies (.rd 0x14#32 wdata) s
      (if s.busy then Config.freeWord s.draws else s.errPos) .okay ∧
    ∀ addr ∉ [0x00#32, 0x04#32, 0x08#32, 0x0C#32, 0x10#32, 0x14#32],
      Replies (.rd addr wdata) s 0#32 .error

/-- R166: an offset that is not a multiple of 4, or 0x18 or above, and a sub-word access (an event
of the model's own, log entry 16). -/
def Obligations.UnmappedRegisterAccess : Prop :=
  (∀ (s : State) (addr wdata : Word), addr.toNat % 4 ≠ 0 ∨ 0x18 ≤ addr.toNat →
    Replies (.rd addr wdata) s 0#32 .error ∧ Replies (.wr addr wdata) s 0#32 .error) ∧
  (∀ (s : State) (we : Bool) (addr : Word) (rest : List Event),
    s.inputs = .subWord we addr :: rest →
    step s = .next (State.replied { s with inputs := rest } 0#32 .error))

/-- R207, 93 U1, U2: each host transaction uses a draw of its own, and no step of any agent takes
the counter back, so no two reads share a free value's argument. The counter is the model's own
field (log entry 7), the event list its choice (log entry 1). -/
def Obligations.EachTransactionTakesAFreshDraw : Prop :=
  (∀ (i : Instr) (s t : State), exec i s = .next t → t.draws = s.draws + 1) ∧
  (∀ s t : State, step s = .next t → s.draws ≤ t.draws ∧
    (∀ w rest, s.inputs = .host w :: rest → t.draws = s.draws + 1) ∧
    ((s.inputs = [] ∨ ∃ rest, s.inputs = .engineTurn :: rest) → s.busy = true →
      t.draws = s.draws + 1))

/-- R162: IN_LEN takes any value while idle, and none while busy. -/
def Obligations.InLenWrite : Prop :=
  ∀ (s : State) (wdata : Word),
    (s.busy = false → AcknowledgesAs (.wr 0x08#32 wdata) s { s with inLen := wdata }) ∧
    (s.busy = true → AcknowledgesAs (.wr 0x08#32 wdata) s s)

/-- R163: a write to STATUS, OUT_LEN, ERR_CHAR or ERR_POS is ignored with OKAY. -/
def Obligations.ReadOnlyRegisterWriteIgnored : Prop :=
  ∀ (s : State) (wdata : Word), ∀ addr ∈ [0x04#32, 0x0C#32, 0x10#32, 0x14#32],
    AcknowledgesAs (.wr addr wdata) s s

/-- R167: an IBUF byte reads exactly, busy or not; an UNSET byte reads as some byte. -/
def Obligations.IbufByteRead : Prop :=
  ∀ (s : State) (addr wdata : Word),
    (s.config.nIn ≤ addr.toNat → Replies (.rdbIbuf addr wdata) s 0#32 .error) ∧
    (addr.toNat < s.config.nIn →
      ∃ b : Byte, Replies (.rdbIbuf addr wdata) s (b.setWidth 32) .okay ∧
        ∀ b', s.ibuf.get? addr.toNat = some b' → b = b')

/-- R168: an IBUF byte write stores `wdata[7:0]` at its index and nothing else, and is dropped
while busy. -/
def Obligations.IbufByteWrite : Prop :=
  ∀ (s : State) (addr wdata : Word),
    (s.config.nIn ≤ addr.toNat → Replies (.wrbIbuf addr wdata) s 0#32 .error) ∧
    (addr.toNat < s.config.nIn → s.busy = true → AcknowledgesAs (.wrbIbuf addr wdata) s s) ∧
    (addr.toNat < s.config.nIn → s.busy = false →
      ∃ m : Memory, AcknowledgesAs (.wrbIbuf addr wdata) s { s with ibuf := m } ∧
        ∀ a, m.get? a = if a = addr.toNat then some (wdata.extractLsb' 0 8) else s.ibuf.get? a)

/-- R169: an OBUF byte reads exactly below OUT_LEN while idle; elsewhere inside the port it reads
as some byte. -/
def Obligations.ObufByteRead : Prop :=
  ∀ (s : State) (addr wdata : Word),
    (s.config.nOut ≤ addr.toNat → Replies (.rdbObuf addr wdata) s 0#32 .error) ∧
    (addr.toNat < s.config.nOut →
      ∃ b : Byte, Replies (.rdbObuf addr wdata) s (b.setWidth 32) .okay ∧
        (s.busy = false → addr.toNat < s.outLen.toNat →
          ∀ b', s.obuf.get? addr.toNat = some b' → b = b'))

/-- R170: the illegal selectors, and a buffer index at or above the port's size. -/
def Obligations.IllegalTransactionsAnswerError : Prop :=
  ∀ (s : State) (addr wdata : Word),
    Replies (.illegalWrbObuf addr wdata) s 0#32 .error ∧
    Replies (.illegalPort3Rd addr wdata) s 0#32 .error ∧
    Replies (.illegalPort3Wr addr wdata) s 0#32 .error ∧
    (s.config.nIn ≤ addr.toNat → Replies (.rdbIbuf addr wdata) s 0#32 .error ∧
      Replies (.wrbIbuf addr wdata) s 0#32 .error) ∧
    (s.config.nOut ≤ addr.toNat → Replies (.rdbObuf addr wdata) s 0#32 .error)

/-- R57, R75: the frame of RD, RDB_IBUF, RDB_OBUF and the three illegal transactions: nothing of
the block changes, no byte of either buffer included. -/
def Obligations.ReadsAndIllegalsFrame : Prop :=
  ∀ (i : Instr) (s t : State), writesNothing i = true → exec i s = .next t →
    SameRegisters s t ∧ SameIbuf s t ∧ SameObuf s t ∧ SameSurroundings s t

/-- R162, R163, R168: the frame of WR (to any offset but CMD's) and of WRB_IBUF. WR changes IN_LEN
at most, and only at its offset; WRB_IBUF changes the byte at its index at most. -/
def Obligations.DataWritesFrame : Prop :=
  ∀ (s t : State) (addr wdata : Word),
    (addr ≠ 0x00#32 → exec (.wr addr wdata) s = .next t →
      SameRegisters { s with inLen := t.inLen } t ∧ (addr ≠ 0x08#32 → t.inLen = s.inLen) ∧
      SameIbuf s t ∧ SameObuf s t ∧ SameSurroundings s t) ∧
    (exec (.wrbIbuf addr wdata) s = .next t →
      SameRegisters s t ∧ (∀ a, a ≠ addr.toNat → t.ibuf.get? a = s.ibuf.get? a) ∧
      SameObuf s t ∧ SameSurroundings s t)

/-- R130, R131: the frame of the command words and of WR to CMD's offset. They never change
IN_LEN or an IBUF byte; one that starts a command leaves the result registers and OBUF alone too
(read from R130's pseudocode, log entry 20), and one that is dropped leaves everything. -/
def Obligations.CommandRequestFrame : Prop :=
  ∀ (i : Instr) (s t : State), requestsCommand i = true → exec i s = .next t →
    t.inLen = s.inLen ∧ SameIbuf s t ∧ SameSurroundings s t ∧
    (s.busy = true → SameRegisters s t ∧ SameObuf s t) ∧
    (t.busy = true → t.outLen = s.outLen ∧ t.errChar = s.errChar ∧ t.errPos = s.errPos ∧
      SameObuf s t)

/-! ### Commands -/

/-- 41_commands.md R130: an accepted command goes in flight with IN_LEN as it stands, and STATUS
shows BUSY alone. That OUT_LEN, ERR_CHAR, ERR_POS and OBUF stay as they were is read from R130's
pseudocode (log entry 20). -/
def Obligations.CommandAccepted : Prop :=
  ∀ (s : State) (reserved : BitVec 30), s.busy = false → s.inLen.toNat ≤ s.config.nIn →
    let started (op : BitVec 2) (c : Command) : State :=
      { s with lastOp := op, done := false, err := false, valid := false, errKind := none,
               engine := some ⟨c, s.inLen⟩ }
    AcknowledgesAs (.encode reserved) s (started 0b01#2 .encode) ∧
    AcknowledgesAs (.decode reserved) s (started 0b10#2 .decode) ∧
    AcknowledgesAs (.validate reserved) s (started 0b11#2 .validate) ∧
    ∀ c op, (started op c).statusWord = 0x00000001#32

/-- R131: OP = 0b00, or IN_LEN above N_IN, completes at once as BadCommand: STATUS reads 0x56. -/
def Obligations.BadCommandCompletesAtOnce : Prop :=
  ∀ (s : State) (reserved : BitVec 30) (op : BitVec 2) (i : Instr), s.busy = false →
    (i = .badcmd reserved ∧ op = 0b00#2 ∨
      s.config.nIn < s.inLen.toNat ∧
        (i = .encode reserved ∧ op = 0b01#2 ∨ i = .decode reserved ∧ op = 0b10#2 ∨
          i = .validate reserved ∧ op = 0b11#2)) →
    ∃ t rdata, exec i s = .next t ∧ t.response = some ⟨rdata, .okay⟩ ∧
      t.statusWord = 0x00000056#32 ∧ t.ReportsError .badCommand 0#8 0 ∧ t.lastOp = op ∧
      t.inLen = s.inLen ∧ SameIbuf s t

/-- 70_reset_and_hazards.md R205: a CMD write while busy is dropped, LAST_OP included, with an
OKAY response. -/
def Obligations.BusyCommandDropped : Prop :=
  ∀ (i : Instr) (s : State), s.busy = true → requestsCommand i = true → AcknowledgesAs i s s

/-- R206: IN_LEN and IBUF writes while busy are dropped with an OKAY response. -/
def Obligations.BusyInputWritesDropped : Prop :=
  ∀ (s : State) (addr wdata : Word), s.busy = true →
    AcknowledgesAs (.wr 0x08#32 wdata) s s ∧
    (addr.toNat < s.config.nIn → AcknowledgesAs (.wrbIbuf addr wdata) s s)

/-- R140, R145, R152, R132: from an idle state that holds the input `b`, a command word is
accepted, and the engine's next turn completes it with the result of its function on `b`. -/
def Obligations.CommandComputesItsFunction : Prop :=
  ∀ (s : State) (reserved : BitVec 30) (b : List Byte), s.busy = false → s.HoldsInput b →
    b.length ≤ s.config.nIn →
    let runs (i : Instr) (op : BitVec 2) (r : Result) : Prop :=
      ∃ t u, exec i s = .next t ∧ t.busy = true ∧ engineStep t = .next u ∧ u.Reports r ∧
        u.lastOp = op ∧ u.inLen = s.inLen ∧ SameIbuf s u ∧ SameSurroundings s u
    runs (.encode reserved) 0b01#2 (encodeFn b) ∧
    runs (.decode reserved) 0b10#2 (decodeFn s.config.wsSet b) ∧
    runs (.validate reserved) 0b11#2 (validateFn s.config.wsSet s.config.valStrictPad b)

/-- 70_reset_and_hazards.md R212: where input bytes are UNSET, the engine's result is that of some
byte sequence that agrees with IBUF on its written bytes. -/
def Obligations.UnwrittenInputReadsAsSomeByte : Prop :=
  ∀ (s : State) (f : InFlight), s.engine = some f → f.len.toNat ≤ s.config.nIn →
    ∃ (b : List Byte) (t : State), b.length = f.len.toNat ∧
      (∀ j < b.length, ∀ c, s.ibuf.get? j = some c → b[j]? = some c) ∧
      engineStep s = .next t ∧ t.Reports (runCommand s.config f.op b)

/-- 30_encoding.md R83, 70_reset_and_hazards.md R204: from an idle state, `LOADX b` runs to its
end and leaves the input `b` in IBUF and IN_LEN, with the rest of the block as before. That no reset
falls between its transactions is the model's choice (log entry 24). -/
def Obligations.LoadPreparesInput : Prop :=
  ∀ (s : State) (b : List Byte), s.busy = false → b.length ≤ s.config.nIn → b.length < 2 ^ 32 →
    ∃ t replies, execAll (loadX b) ⟨s, []⟩ = .next ⟨t, replies⟩ ∧
      replies.length = b.length + 1 ∧ (∀ r ∈ replies, r.resp = .okay) ∧
      t.busy = false ∧ t.HoldsInput b ∧
      SameRegisters { s with inLen := t.inLen } t ∧
      (∀ a, b.length ≤ a → t.ibuf.get? a = s.ibuf.get? a) ∧ SameObuf s t ∧
      SameSurroundings s t

/-- R83, R211: POLL is still going while the engine has not moved, and ends at the first read after
it has: with the result the command computes, and with STATUS as it then stands, BUSY = 0, as the
last read's rdata. The schedule of the engine's turns is the model's choice (log entry 23). -/
def Obligations.PollEndsWithTheCommand : Prop :=
  ∀ (s : State) (turns : List Bool), s.Inv →
    (s.busy = true → true ∉ turns →
      ∃ t, poll turns s = .next ⟨t, none⟩ ∧ SameRegisters s t ∧ SameIbuf s t ∧ SameObuf s t) ∧
    (true ∈ turns ∨ s.busy = false ∧ turns ≠ [] →
      ∃ t, poll turns s = .next ⟨t, some t.statusWord⟩ ∧ t.busy = false ∧
        t.statusWord.getLsbD 0 = false ∧ SameIbuf s t ∧ SameSurroundings s t ∧
        (s.busy = false → SameRegisters s t ∧ SameObuf s t) ∧
        (∀ f b, s.engine = some f → s.HoldsInput b → t.Reports (runCommand s.config f.op b)))

/-- R83, 20_memory.md R61: from a state that reports the output `d`, `READOUT` reads OUT_LEN as
`|d|` and then exactly that many bytes, byte `k` of OBUF as `d[k]`, and changes nothing of the
block. That no reset falls between its transactions is the model's choice (log entry 24). -/
def Obligations.ReadoutReturnsOutput : Prop :=
  ∀ (s : State) (d : List Byte), s.ReportsOutput d → d.length < 2 ^ 32 →
    d.length ≤ s.config.nOut →
    Replies (.rd 0x0C#32 0#32) s (BitVec.ofNat 32 d.length) .okay ∧
    (∀ (k : Nat) (c : Byte), d[k]? = some c →
      Replies (.rdbObuf (BitVec.ofNat 32 k) 0#32) s (c.setWidth 32) .okay) ∧
    ∃ t, readout s = .next ⟨t, ⟨BitVec.ofNat 32 d.length, .okay⟩ ::
        d.map fun c => ⟨c.setWidth 32, .okay⟩⟩ ∧
      t.ReportsOutput d ∧ SameRegisters s t ∧ SameIbuf s t ∧ SameObuf s t ∧ SameSurroundings s t

/-- R155 in hardware: ENCODE an input, let another idle state hold what OBUF then shows (the
host's copy), DECODE it: OBUF shows the first input. -/
def Obligations.HardwareRoundTrip : Prop :=
  ∀ (s s' t u t' u' : State) (r r' : BitVec 30) (b e : List Byte),
    s.busy = false → s.HoldsInput b → b.length ≤ s.config.nIn →
    exec (.encode r) s = .next t → engineStep t = .next u →
    e.length = (b.length + 4) / 5 * 8 → (∀ j < e.length, u.obuf.get? j = e[j]?) →
    s'.busy = false → s'.HoldsInput e → e.length ≤ s'.config.nIn →
    exec (.decode r') s' = .next t' → engineStep t' = .next u' →
    u'.ReportsOutput b

/-- R185: the engine never ends an ENCODE or VALIDATE with an error; what DECODE would report is
VALID = 0; only BadCommand ends such a request with ERR = 1. -/
def Obligations.EncodeAndValidateNeverRaise : Prop :=
  (∀ (s t : State) (f : InFlight), s.engine = some f → f.op ≠ .decode →
    engineStep s = .next t → t.err = false ∧ t.errKind = none) ∧
  (∀ (wsSet s : List Byte) (strict : Bool) (kind : ErrKind) (char : Byte) (pos : Nat),
    strict = true ∨ kind ≠ .badPadding →
    decodeFn wsSet s = .err kind char pos → validateFn wsSet strict s = .bool false) ∧
  (∀ (s t : State) (reserved : BitVec 30) (i : Instr), s.busy = false →
    i = .encode reserved ∨ i = .validate reserved → exec i s = .next t → t.err = true →
    t.errKind = some .badCommand)

/-- 10_state.md R37: the engine's turn only reads IBUF, and changes nothing the host sets. That the
last response stays is the model's choice (log entry 12), and so is a turn with no command in flight,
which passes (log entry 1): the spec's step is enabled only while busy. -/
def Obligations.EngineTurnFrame : Prop :=
  ∀ s t : State, engineStep s = .next t →
    t.inLen = s.inLen ∧ t.lastOp = s.lastOp ∧ SameIbuf s t ∧ SameSurroundings s t ∧
    t.response = s.response ∧ t.busy = false ∧ (s.busy = false → t = s)

/-- R157: a completed command's registers and OBUF depend only on the command, its length, the
written input bytes and the parameters. OUT_LEN of a result of 2^32 bytes or more is free (log
entry 10). That OBUF agrees at OUT_LEN and above, and after VALIDATE, rests on those bytes being left
UNSET (log entry 9): R157 speaks of the result alone. -/
def Obligations.CommandsAreIndependent : Prop :=
  ∀ (s s' t t' : State) (f : InFlight), s.engine = some f → s'.engine = some f →
    s.config = s'.config →
    (∀ j < f.len.toNat, (s.ibuf.get? j).isSome ∧ s.ibuf.get? j = s'.ibuf.get? j) →
    engineStep s = .next t → engineStep s' = .next t' →
    t.err = t'.err ∧ t.valid = t'.valid ∧ t.errKind = t'.errKind ∧ t.errChar = t'.errChar ∧
    t.errPos = t'.errPos ∧ SameObuf t t' ∧
    ((runCommand s.config f.op (s.inputBytes f.len.toNat)).outCount < 2 ^ 32 →
      t.outLen = t'.outLen)

/-! ### The whole machine -/

/-- The invariant (R8, R26 to R35, R58) holds at reset. -/
def Obligations.InvariantHoldsAtReset : Prop := State.reset.Inv

/-- Every step keeps the invariant, whatever event it takes. -/
def Obligations.InvariantKeptByEveryStep : Prop :=
  ∀ s t : State, s.Inv → step s = .next t → t.Inv

/-- 60_exceptions.md R188: no internal fault: from every state that satisfies the invariant, a
step answers a next state. -/
def Obligations.StepAlwaysAnswers : Prop :=
  ∀ s : State, s.Inv → ∃ t, step s = .next t

/-- 70_reset_and_hazards.md R211: once the listed events are over, one more step finds the block
idle: a command in flight completes, and a read of STATUS then ends POLL (R83). That an engine with
no event listed moves is the model's form of weak fairness (log entries 1, 18). -/
def Obligations.CommandInFlightCompletes : Prop :=
  ∀ s : State, s.Inv →
    ∃ t, runSteps (s.inputs.length + 1) s = .next t ∧ t.busy = false ∧ t.inputs = [] ∧
      (s.inputs = [] → s.busy = true → t.done = true) ∧
      Replies pollRead t t.statusWord .okay ∧ pollEnds ⟨t.statusWord, .okay⟩ = true

/-- R8, R39: no step changes the parameters. That State holds them is the model's choice (log
entries 5, 6). -/
def Obligations.ParametersNeverChange : Prop :=
  ∀ s t : State, step s = .next t → t.config = s.config

/-- R27: only an accepted command sets BUSY; only the engine's completion and reset clear it. The
event list is the model's choice (log entry 1). -/
def Obligations.BusyChangesOnlyAsStated : Prop :=
  ∀ s t : State, step s = .next t →
    (s.busy = false → t.busy = true →
      ∃ w rest, s.inputs = .host w :: rest ∧ requestsCommand (decode w) = true) ∧
    (s.busy = true → t.busy = false →
      s.inputs = [] ∨ ∃ rest, s.inputs = .engineTurn :: rest ∨ s.inputs = .reset :: rest)

/-- R28: DONE stays 1 until the next accepted command or reset. The event list is the model's
choice (log entry 1). -/
def Obligations.DoneStaysUntilCommandOrReset : Prop :=
  ∀ s t : State, s.Inv → step s = .next t → s.done = true → t.done = false →
    (∃ w rest, s.inputs = .host w :: rest ∧ requestsCommand (decode w) = true) ∨
    ∃ rest, s.inputs = .reset :: rest

/-- 20_memory.md R61: a completed command's result stays, register by register and byte by byte,
through every step that neither requests a command nor resets. The event list is the model's
choice (log entry 1). -/
def Obligations.ResultsStayAfterCompletion : Prop :=
  ∀ s t : State, s.busy = false → s.done = true → step s = .next t →
    (∀ w rest, s.inputs = .host w :: rest → requestsCommand (decode w) = false) →
    (∀ rest, s.inputs ≠ .reset :: rest) →
    t.done = true ∧ t.err = s.err ∧ t.valid = s.valid ∧ t.errKind = s.errKind ∧
      t.outLen = s.outLen ∧ t.errChar = s.errChar ∧ t.errPos = s.errPos ∧ t.lastOp = s.lastOp ∧
      SameObuf s t
end

