-- ==== Sys2Proof/Laws/Datapath.lean ====
section
/-!
SUPPORT. The datapath, bit by bit and chunk by chunk: which bit of a byte or symbol stands where in
an accumulator, and how ENCODE's chunks and DECODE's groups unfold from the front.
-/

namespace Sys2Proof.Machine

open Sys2Proof

/-! ### Accumulators -/

/-- Bit `i` of the encode accumulator (R77). -/
theorem encodeAcc_getLsbD (b : List Byte) {i : Nat} (hi : i < 40) :
    (encodeAcc b).getLsbD i = (b.getD (4 - i / 8) 0#8).getLsbD (i % 8) := by
  have h : (b.getD 0 0#8 ++ b.getD 1 0#8 ++ b.getD 2 0#8 ++ b.getD 3 0#8 ++ b.getD 4 0#8 :
      BitVec (8 + 8 + 8 + 8 + 8)).getLsbD i = (b.getD (4 - i / 8) 0#8).getLsbD (i % 8) := by
    simp only [BitVec.getLsbD_append]
    have : i / 8 = 0 ∨ i / 8 = 1 ∨ i / 8 = 2 ∨ i / 8 = 3 ∨ i / 8 = 4 := by omega
    rcases this with h | h | h | h | h <;> rw [h] <;> simp <;> grind
  exact h

/-- Bit `i` of the decode accumulator of a group (R78). -/
theorem decodeAcc_getLsbD (e : Nat → ClassEntry) {i : Nat} (hi : i < 40) :
    (decodeAcc [e 0, e 1, e 2, e 3, e 4, e 5, e 6, e 7]).getLsbD i =
      (e (7 - i / 5)).value.getLsbD (i % 5) := by
  simp only [decodeAcc, List.foldl, BitVec.getLsbD_or, BitVec.getLsbD_shiftLeft,
    BitVec.getLsbD_setWidth]
  interval_cases i <;> simp

theorem symbolAt_getLsbD (acc : Acc) (i j : Nat) :
    (symbolAt acc i).getLsbD j = (decide (j < 5) && acc.getLsbD (35 - 5 * i + j)) := by
  simp [symbolAt, BitVec.getLsbD_extractLsb']

theorem byteAt_getLsbD (acc : Acc) (j i : Nat) :
    (byteAt acc j).getLsbD i = (decide (i < 8) && acc.getLsbD (32 - 8 * j + i)) := by
  simp [byteAt, BitVec.getLsbD_extractLsb']

/-! ### Chunks -/

@[simp] theorem pack5to8_length (b : List Byte) : (pack5to8 b).length = 8 := by simp [pack5to8]

@[simp] theorem encodeBytesOut_nil : encodeBytesOut [] = [] := rfl

/-- ENCODE packs the first chunk and goes on with the rest (R140). -/
theorem encodeBytesOut_chunk {b : List Byte} (h : b ≠ []) :
    encodeBytesOut b = pack5to8 (b.take 5) ++ encodeBytesOut (b.drop 5) := by
  have hl := List.length_pos_iff.mpr h
  have hc : (b.length + 4) / 5 = ((b.drop 5).length + 4) / 5 + 1 := by
    simp only [List.length_drop]; omega
  unfold encodeBytesOut
  rw [hc, List.range_succ_eq_map]
  simp only [List.flatMap_cons, List.flatMap_map, Nat.mul_zero, List.drop_zero]
  congr 2
  funext k
  simp only [List.drop_drop, Nat.succ_eq_add_one, Nat.mul_add, Nat.mul_one, Nat.add_comm]

/-- Induction over an input, chunk by chunk. -/
theorem chunk_induction {P : List Byte → Prop} (nil : P [])
    (chunk : ∀ b, b ≠ [] → P (b.drop 5) → P b) (b : List Byte) : P b := by
  induction hn : b.length using Nat.strong_induction_on generalizing b with
  | _ n ih =>
    by_cases hb : b = []
    · exact hb ▸ nil
    · refine chunk b hb (ih _ ?_ _ rfl)
      have := List.length_pos_iff.mpr hb
      simp only [List.length_drop]
      omega

/-! ### Groups -/

@[simp] theorem UnpackResult.isOk_ok (d : List Byte) : (UnpackResult.ok d).isOk = true := rfl

@[simp] theorem UnpackResult.isOk_bad (p : Nat) : (UnpackResult.bad p).isOk = false := rfl

/-- Everything UNPACK8TO5 can give (R108). -/
theorem unpack8to5_cases (u : List ClassEntry) :
    (∃ nb, padBytes (padCount u) = some nb ∧
      unpack8to5 u = .ok ((List.range nb).map (byteAt (decodeAcc u)))) ∨
    (padBytes (padCount u) = none ∧ unpack8to5 u = .bad (padCount u)) := by
  unfold unpack8to5; cases padBytes (padCount u) <;> simp

theorem unpack8to5_isOk (u : List ClassEntry) :
    (unpack8to5 u).isOk = true ↔ padBytes (padCount u) ≠ none := by
  rcases unpack8to5_cases u with ⟨nb, h, e⟩ | ⟨h, e⟩ <;> simp [h, e]

/-- A group yields as many bytes as its pad count says (R106, R108). -/
theorem unpack8to5_length {u : List ClassEntry} {d : List Byte} (h : unpack8to5 u = .ok d) :
    padBytes (padCount u) = some d.length := by
  rcases unpack8to5_cases u with ⟨nb, hn, e⟩ | ⟨-, e⟩ <;> rw [e] at h <;> cases h
  simp [hn]

/-- What a run over groups says about each (R145): all good, or the first bad one. -/
theorem decodeGroups_spec (t : List ClassEntry) (count g : Nat) :
    (∀ d, decodeGroups t count g = .ok d →
      ∀ k, g ≤ k → k < g + count → (unpack8to5 ((t.drop (8 * k)).take 8)).isOk = true) ∧
    (∀ k, decodeGroups t count g = .badPadding k →
      g ≤ k ∧ k < g + count ∧ (unpack8to5 ((t.drop (8 * k)).take 8)).isOk = false ∧
      ∀ k', g ≤ k' → k' < k → (unpack8to5 ((t.drop (8 * k')).take 8)).isOk = true) := by
  induction count generalizing g with
  | zero => simp [decodeGroups]; intros; omega
  | succ count ih =>
    obtain ⟨i1, i2⟩ := ih (g + 1)
    simp only [decodeGroups]
    cases hu : unpack8to5 ((t.drop (8 * g)).take 8) with
    | bad p => simp; refine ⟨by simp [hu], ?_⟩; intros; omega
    | ok d0 =>
      simp only
      cases hd : decodeGroups t count (g + 1) with
      | ok d' =>
        simp only [GroupsResult.prepend, reduceCtorEq, false_implies, implies_true, and_true]
        intro _ _ k h1 h2
        by_cases hk : k = g
        · subst hk; simp [hu]
        · exact i1 _ hd k (by omega) (by omega)
      | badPadding k =>
        obtain ⟨a, b, c, d⟩ := i2 _ hd
        simp only [GroupsResult.prepend, reduceCtorEq, false_implies, implies_true, true_and,
          GroupsResult.badPadding.injEq]
        rintro _ rfl
        refine ⟨by omega, by omega, c, fun k' h1 h2 => ?_⟩
        by_cases hk : k' = g
        · subst hk; simp [hu]
        · exact d k' (by omega) h2

end Sys2Proof.Machine
end

