-- ==== Sys2Proof/Laws/Memory.lean ====
section
/-!
SUPPORT. The buffer laws: a read after a write to the same index gives the byte, a write leaves
every other index alone, and every operation keeps the canonical form.
-/

namespace Sys2Proof.Machine

open Sys2Proof

@[simp] theorem Memory.get?_nil (a : Nat) : Memory.get? [] a = none := rfl

theorem Memory.get?_set (m : Memory) (a : Nat) (b : Byte) (x : Nat) :
    (m.set a b).get? x = if x = a then some b else m.get? x := by
  induction m with
  | nil => simp [Memory.set, Memory.get?, eq_comm]
  | cons c m ih =>
    simp only [Memory.set]
    split
    · simp [Memory.get?, eq_comm]
    · split
      · simp only [Memory.get?]; grind
      · simp only [Memory.get?, ih]; grind

@[simp] theorem Memory.get?_set_same (m : Memory) (a : Nat) (b : Byte) :
    (m.set a b).get? a = some b := by simp [Memory.get?_set]

theorem Memory.get?_set_other (m : Memory) {a x : Nat} (b : Byte) (h : x ≠ a) :
    (m.set a b).get? x = m.get? x := by simp [Memory.get?_set, h]

/-- Every entry of `m.set a b` is the new one or an old one. -/
theorem Memory.mem_set {m : Memory} {a : Nat} {b : Byte} {c : Host.Cell}
    (h : c ∈ m.set a b) : c = (a, b) ∨ c ∈ m := by
  induction m with
  | nil => simpa [Memory.set] using h
  | cons d m ih =>
    simp only [Memory.set] at h
    split at h
    · simpa using h
    · split at h
      · simp only [List.mem_cons] at h ⊢; tauto
      · simp only [List.mem_cons] at h ⊢
        rcases h with h | h
        · tauto
        · rcases ih h with h | h <;> tauto

theorem Memory.wf_nil : Memory.wf [] := List.Pairwise.nil

theorem Memory.wf_set {m : Memory} (h : m.wf) (a : Nat) (b : Byte) : (m.set a b).wf := by
  induction m with
  | nil => simp [Memory.set, Memory.wf]
  | cons d m ih =>
    obtain ⟨hd, hm⟩ := List.pairwise_cons.mp h
    simp only [Memory.set]
    split
    · rename_i hlt
      refine List.pairwise_cons.mpr ⟨?_, h⟩
      intro c hc
      rcases List.mem_cons.mp hc with rfl | hc
      · exact hlt
      · exact lt_trans hlt (hd c hc)
    · split
      · rename_i heq
        exact List.pairwise_cons.mpr ⟨fun c hc => by simpa [heq] using hd c hc, hm⟩
      · rename_i hlt hne
        refine List.pairwise_cons.mpr ⟨?_, ih hm⟩
        intro c hc
        rcases Memory.mem_set hc with rfl | hc
        · simp only; omega
        · exact hd c hc

theorem Memory.wf_setFrom {m : Memory} (h : m.wf) (j : Nat) (d : List Byte) :
    (m.setFrom j d).wf := by
  induction d generalizing m j with
  | nil => exact h
  | cons b d ih => exact ih (Memory.wf_set h j b) (j + 1)

theorem Memory.get?_setFrom (m : Memory) (j : Nat) (d : List Byte) (x : Nat) :
    (m.setFrom j d).get? x =
      if j ≤ x ∧ x < j + d.length then d[x - j]? else m.get? x := by
  induction d generalizing m j with
  | nil =>
    have h : ¬ (j ≤ x ∧ x < j + ([] : List Byte).length) := by simp
    simp only [Memory.setFrom, if_neg h]
  | cons b d ih =>
    simp only [Memory.setFrom, ih, Memory.get?_set, List.length_cons]
    by_cases hx : x = j
    · subst hx; simp
    · by_cases hin : j + 1 ≤ x ∧ x < j + 1 + d.length
      · have h1 : x - j = (x - (j + 1)) + 1 := by omega
        have h2 : j ≤ x ∧ x < j + (d.length + 1) := by omega
        simp [hin, h1, h2]
      · have h2 : ¬ (j ≤ x ∧ x < j + (d.length + 1)) := by omega
        rw [if_neg hin, if_neg hx, if_neg h2]

/-- The indices of `m.setFrom j d` are old ones or those of `d`. -/
theorem Memory.mem_setFrom {m : Memory} {j : Nat} {d : List Byte} {c : Host.Cell}
    (h : c ∈ m.setFrom j d) : c ∈ m ∨ (j ≤ c.1 ∧ c.1 < j + d.length) := by
  induction d generalizing m j with
  | nil => exact .inl h
  | cons b d ih =>
    rcases ih h with h | h
    · rcases Memory.mem_set h with rfl | h
      · right; simp
      · exact .inl h
    · right; simp only [List.length_cons]; omega

/-- The reset state's buffers are in canonical form. -/
theorem reset_buffers_wf : State.reset.ibuf.wf ∧ State.reset.obuf.wf :=
  ⟨Memory.wf_nil, Memory.wf_nil⟩

end Sys2Proof.Machine
end

