-- ==== Sys2Proof/Laws/State.lean ====
section
/-!
SUPPORT. One lemma per field per update of the state, so that no later proof unfolds a record
update.
-/

namespace Sys2Proof.Machine

open Sys2Proof

/-! ### `State.accept` -/

section

variable (s : State) (op : BitVec 2)

@[simp] theorem State.accept_lastOp : (s.accept op).lastOp = op := rfl
@[simp] theorem State.accept_done : (s.accept op).done = false := rfl
@[simp] theorem State.accept_err : (s.accept op).err = false := rfl
@[simp] theorem State.accept_valid : (s.accept op).valid = false := rfl
@[simp] theorem State.accept_errKind : (s.accept op).errKind = none := rfl
@[simp] theorem State.accept_inLen : (s.accept op).inLen = s.inLen := rfl
@[simp] theorem State.accept_outLen : (s.accept op).outLen = s.outLen := rfl
@[simp] theorem State.accept_errChar : (s.accept op).errChar = s.errChar := rfl
@[simp] theorem State.accept_errPos : (s.accept op).errPos = s.errPos := rfl
@[simp] theorem State.accept_ibuf : (s.accept op).ibuf = s.ibuf := rfl
@[simp] theorem State.accept_obuf : (s.accept op).obuf = s.obuf := rfl
@[simp] theorem State.accept_engine : (s.accept op).engine = none := rfl
@[simp] theorem State.accept_config : (s.accept op).config = s.config := rfl
@[simp] theorem State.accept_response : (s.accept op).response = s.response := rfl
@[simp] theorem State.accept_inputs : (s.accept op).inputs = s.inputs := rfl
@[simp] theorem State.accept_draws : (s.accept op).draws = s.draws := rfl

end

/-! ### `State.start` -/

section

variable (s : State) (c : Command)

@[simp] theorem State.start_lastOp : (s.start c).lastOp = s.lastOp := rfl
@[simp] theorem State.start_done : (s.start c).done = s.done := rfl
@[simp] theorem State.start_err : (s.start c).err = s.err := rfl
@[simp] theorem State.start_valid : (s.start c).valid = s.valid := rfl
@[simp] theorem State.start_errKind : (s.start c).errKind = s.errKind := rfl
@[simp] theorem State.start_inLen : (s.start c).inLen = s.inLen := rfl
@[simp] theorem State.start_outLen : (s.start c).outLen = s.outLen := rfl
@[simp] theorem State.start_errChar : (s.start c).errChar = s.errChar := rfl
@[simp] theorem State.start_errPos : (s.start c).errPos = s.errPos := rfl
@[simp] theorem State.start_ibuf : (s.start c).ibuf = s.ibuf := rfl
@[simp] theorem State.start_obuf : (s.start c).obuf = s.obuf := rfl
@[simp] theorem State.start_engine : (s.start c).engine = some ⟨c, s.inLen⟩ := rfl
@[simp] theorem State.start_config : (s.start c).config = s.config := rfl
@[simp] theorem State.start_response : (s.start c).response = s.response := rfl
@[simp] theorem State.start_inputs : (s.start c).inputs = s.inputs := rfl
@[simp] theorem State.start_draws : (s.start c).draws = s.draws := rfl

end

/-! ### `State.respond` -/

section

variable (s : State) (rdata : Word) (resp : Resp)

@[simp] theorem State.respond_lastOp : (s.respond rdata resp).lastOp = s.lastOp := rfl
@[simp] theorem State.respond_done : (s.respond rdata resp).done = s.done := rfl
@[simp] theorem State.respond_err : (s.respond rdata resp).err = s.err := rfl
@[simp] theorem State.respond_valid : (s.respond rdata resp).valid = s.valid := rfl
@[simp] theorem State.respond_errKind : (s.respond rdata resp).errKind = s.errKind := rfl
@[simp] theorem State.respond_inLen : (s.respond rdata resp).inLen = s.inLen := rfl
@[simp] theorem State.respond_outLen : (s.respond rdata resp).outLen = s.outLen := rfl
@[simp] theorem State.respond_errChar : (s.respond rdata resp).errChar = s.errChar := rfl
@[simp] theorem State.respond_errPos : (s.respond rdata resp).errPos = s.errPos := rfl
@[simp] theorem State.respond_ibuf : (s.respond rdata resp).ibuf = s.ibuf := rfl
@[simp] theorem State.respond_obuf : (s.respond rdata resp).obuf = s.obuf := rfl
@[simp] theorem State.respond_engine : (s.respond rdata resp).engine = s.engine := rfl
@[simp] theorem State.respond_config : (s.respond rdata resp).config = s.config := rfl
@[simp] theorem State.respond_response : (s.respond rdata resp).response = some ⟨rdata, resp⟩ := rfl
@[simp] theorem State.respond_inputs : (s.respond rdata resp).inputs = s.inputs := rfl
@[simp] theorem State.respond_draws : (s.respond rdata resp).draws = s.draws + 1 := rfl

end

/-! ### `State.respondWrite` -/

section

variable (s : State)

@[simp] theorem State.respondWrite_lastOp : (s.respondWrite).lastOp = s.lastOp := rfl
@[simp] theorem State.respondWrite_done : (s.respondWrite).done = s.done := rfl
@[simp] theorem State.respondWrite_err : (s.respondWrite).err = s.err := rfl
@[simp] theorem State.respondWrite_valid : (s.respondWrite).valid = s.valid := rfl
@[simp] theorem State.respondWrite_errKind : (s.respondWrite).errKind = s.errKind := rfl
@[simp] theorem State.respondWrite_inLen : (s.respondWrite).inLen = s.inLen := rfl
@[simp] theorem State.respondWrite_outLen : (s.respondWrite).outLen = s.outLen := rfl
@[simp] theorem State.respondWrite_errChar : (s.respondWrite).errChar = s.errChar := rfl
@[simp] theorem State.respondWrite_errPos : (s.respondWrite).errPos = s.errPos := rfl
@[simp] theorem State.respondWrite_ibuf : (s.respondWrite).ibuf = s.ibuf := rfl
@[simp] theorem State.respondWrite_obuf : (s.respondWrite).obuf = s.obuf := rfl
@[simp] theorem State.respondWrite_engine : (s.respondWrite).engine = s.engine := rfl
@[simp] theorem State.respondWrite_config : (s.respondWrite).config = s.config := rfl
@[simp] theorem State.respondWrite_response :
    (s.respondWrite).response = some ⟨Config.freeWord s.draws, .okay⟩ := rfl
@[simp] theorem State.respondWrite_inputs : (s.respondWrite).inputs = s.inputs := rfl
@[simp] theorem State.respondWrite_draws : (s.respondWrite).draws = s.draws + 1 := rfl

end

/-! ### `State.respondError` -/

section

variable (s : State)

@[simp] theorem State.respondError_lastOp : (s.respondError).lastOp = s.lastOp := rfl
@[simp] theorem State.respondError_done : (s.respondError).done = s.done := rfl
@[simp] theorem State.respondError_err : (s.respondError).err = s.err := rfl
@[simp] theorem State.respondError_valid : (s.respondError).valid = s.valid := rfl
@[simp] theorem State.respondError_errKind : (s.respondError).errKind = s.errKind := rfl
@[simp] theorem State.respondError_inLen : (s.respondError).inLen = s.inLen := rfl
@[simp] theorem State.respondError_outLen : (s.respondError).outLen = s.outLen := rfl
@[simp] theorem State.respondError_errChar : (s.respondError).errChar = s.errChar := rfl
@[simp] theorem State.respondError_errPos : (s.respondError).errPos = s.errPos := rfl
@[simp] theorem State.respondError_ibuf : (s.respondError).ibuf = s.ibuf := rfl
@[simp] theorem State.respondError_obuf : (s.respondError).obuf = s.obuf := rfl
@[simp] theorem State.respondError_engine : (s.respondError).engine = s.engine := rfl
@[simp] theorem State.respondError_config : (s.respondError).config = s.config := rfl
@[simp] theorem State.respondError_response : (s.respondError).response = some ⟨0#32, .error⟩ := rfl
@[simp] theorem State.respondError_inputs : (s.respondError).inputs = s.inputs := rfl
@[simp] theorem State.respondError_draws : (s.respondError).draws = s.draws + 1 := rfl

end

/-! ### `State.resetEvent` -/

section

variable (s : State)

@[simp] theorem State.resetEvent_lastOp : (s.resetEvent).lastOp = 0b00#2 := rfl
@[simp] theorem State.resetEvent_done : (s.resetEvent).done = false := rfl
@[simp] theorem State.resetEvent_err : (s.resetEvent).err = false := rfl
@[simp] theorem State.resetEvent_valid : (s.resetEvent).valid = false := rfl
@[simp] theorem State.resetEvent_errKind : (s.resetEvent).errKind = none := rfl
@[simp] theorem State.resetEvent_inLen : (s.resetEvent).inLen = 0#32 := rfl
@[simp] theorem State.resetEvent_outLen : (s.resetEvent).outLen = 0#32 := rfl
@[simp] theorem State.resetEvent_errChar : (s.resetEvent).errChar = 0#8 := rfl
@[simp] theorem State.resetEvent_errPos : (s.resetEvent).errPos = 0#32 := rfl
@[simp] theorem State.resetEvent_ibuf : (s.resetEvent).ibuf = [] := rfl
@[simp] theorem State.resetEvent_obuf : (s.resetEvent).obuf = [] := rfl
@[simp] theorem State.resetEvent_engine : (s.resetEvent).engine = none := rfl
@[simp] theorem State.resetEvent_config : (s.resetEvent).config = s.config := rfl
@[simp] theorem State.resetEvent_response : (s.resetEvent).response = none := rfl
@[simp] theorem State.resetEvent_inputs : (s.resetEvent).inputs = s.inputs := rfl
@[simp] theorem State.resetEvent_draws : (s.resetEvent).draws = s.draws + 1 := rfl

end

/-! ### `State.writeInLen` -/

section

variable (s : State) (wdata : Word)

@[simp] theorem State.writeInLen_lastOp :
    (s.writeInLen wdata).lastOp = s.lastOp := by
  unfold State.writeInLen; split <;> rfl
@[simp] theorem State.writeInLen_done :
    (s.writeInLen wdata).done = s.done := by
  unfold State.writeInLen; split <;> rfl
@[simp] theorem State.writeInLen_err :
    (s.writeInLen wdata).err = s.err := by
  unfold State.writeInLen; split <;> rfl
@[simp] theorem State.writeInLen_valid :
    (s.writeInLen wdata).valid = s.valid := by
  unfold State.writeInLen; split <;> rfl
@[simp] theorem State.writeInLen_errKind :
    (s.writeInLen wdata).errKind = s.errKind := by
  unfold State.writeInLen; split <;> rfl
@[simp] theorem State.writeInLen_outLen :
    (s.writeInLen wdata).outLen = s.outLen := by
  unfold State.writeInLen; split <;> rfl
@[simp] theorem State.writeInLen_errChar :
    (s.writeInLen wdata).errChar = s.errChar := by
  unfold State.writeInLen; split <;> rfl
@[simp] theorem State.writeInLen_errPos :
    (s.writeInLen wdata).errPos = s.errPos := by
  unfold State.writeInLen; split <;> rfl
@[simp] theorem State.writeInLen_ibuf :
    (s.writeInLen wdata).ibuf = s.ibuf := by
  unfold State.writeInLen; split <;> rfl
@[simp] theorem State.writeInLen_obuf :
    (s.writeInLen wdata).obuf = s.obuf := by
  unfold State.writeInLen; split <;> rfl
@[simp] theorem State.writeInLen_engine :
    (s.writeInLen wdata).engine = s.engine := by
  unfold State.writeInLen; split <;> rfl
@[simp] theorem State.writeInLen_config :
    (s.writeInLen wdata).config = s.config := by
  unfold State.writeInLen; split <;> rfl
@[simp] theorem State.writeInLen_response :
    (s.writeInLen wdata).response = s.response := by
  unfold State.writeInLen; split <;> rfl
@[simp] theorem State.writeInLen_inputs :
    (s.writeInLen wdata).inputs = s.inputs := by
  unfold State.writeInLen; split <;> rfl
@[simp] theorem State.writeInLen_draws :
    (s.writeInLen wdata).draws = s.draws := by
  unfold State.writeInLen; split <;> rfl

end

/-! ### `State.writeIbuf` -/

section

variable (s : State) (i : Nat) (b : Byte)

@[simp] theorem State.writeIbuf_lastOp :
    (s.writeIbuf i b).lastOp = s.lastOp := by
  unfold State.writeIbuf; split <;> rfl
@[simp] theorem State.writeIbuf_done :
    (s.writeIbuf i b).done = s.done := by
  unfold State.writeIbuf; split <;> rfl
@[simp] theorem State.writeIbuf_err :
    (s.writeIbuf i b).err = s.err := by
  unfold State.writeIbuf; split <;> rfl
@[simp] theorem State.writeIbuf_valid :
    (s.writeIbuf i b).valid = s.valid := by
  unfold State.writeIbuf; split <;> rfl
@[simp] theorem State.writeIbuf_errKind :
    (s.writeIbuf i b).errKind = s.errKind := by
  unfold State.writeIbuf; split <;> rfl
@[simp] theorem State.writeIbuf_inLen :
    (s.writeIbuf i b).inLen = s.inLen := by
  unfold State.writeIbuf; split <;> rfl
@[simp] theorem State.writeIbuf_outLen :
    (s.writeIbuf i b).outLen = s.outLen := by
  unfold State.writeIbuf; split <;> rfl
@[simp] theorem State.writeIbuf_errChar :
    (s.writeIbuf i b).errChar = s.errChar := by
  unfold State.writeIbuf; split <;> rfl
@[simp] theorem State.writeIbuf_errPos :
    (s.writeIbuf i b).errPos = s.errPos := by
  unfold State.writeIbuf; split <;> rfl
@[simp] theorem State.writeIbuf_obuf :
    (s.writeIbuf i b).obuf = s.obuf := by
  unfold State.writeIbuf; split <;> rfl
@[simp] theorem State.writeIbuf_engine :
    (s.writeIbuf i b).engine = s.engine := by
  unfold State.writeIbuf; split <;> rfl
@[simp] theorem State.writeIbuf_config :
    (s.writeIbuf i b).config = s.config := by
  unfold State.writeIbuf; split <;> rfl
@[simp] theorem State.writeIbuf_response :
    (s.writeIbuf i b).response = s.response := by
  unfold State.writeIbuf; split <;> rfl
@[simp] theorem State.writeIbuf_inputs :
    (s.writeIbuf i b).inputs = s.inputs := by
  unfold State.writeIbuf; split <;> rfl
@[simp] theorem State.writeIbuf_draws :
    (s.writeIbuf i b).draws = s.draws := by
  unfold State.writeIbuf; split <;> rfl

end

/-! ### `State.complete` -/

section

variable (s : State) (r : Result)

@[simp] theorem State.complete_lastOp : (s.complete r).lastOp = s.lastOp := by
  cases r <;> rfl
@[simp] theorem State.complete_done : (s.complete r).done = true := by
  cases r <;> rfl
@[simp] theorem State.complete_inLen : (s.complete r).inLen = s.inLen := by
  cases r <;> rfl
@[simp] theorem State.complete_ibuf : (s.complete r).ibuf = s.ibuf := by
  cases r <;> rfl
@[simp] theorem State.complete_engine : (s.complete r).engine = none := by
  cases r <;> rfl
@[simp] theorem State.complete_config : (s.complete r).config = s.config := by
  cases r <;> rfl
@[simp] theorem State.complete_response :
    (s.complete r).response = s.response := by
  cases r <;> rfl
@[simp] theorem State.complete_inputs : (s.complete r).inputs = s.inputs := by
  cases r <;> rfl
@[simp] theorem State.complete_draws : (s.complete r).draws = s.draws := by
  cases r <;> rfl

end

/-! ### What `State.complete` writes, result by result -/

section

variable (s : State) (d : List Byte) (kind : ErrKind) (char : Byte) (pos : Nat) (b : Bool)

@[simp] theorem State.complete_out_obuf :
    (s.complete (.out d)).obuf = Memory.setFrom [] 0 d := rfl
@[simp] theorem State.complete_out_outLen :
    (s.complete (.out d)).outLen = outLenWord s.draws d.length := rfl
@[simp] theorem State.complete_out_err :
    (s.complete (.out d)).err = false := rfl
@[simp] theorem State.complete_out_errKind :
    (s.complete (.out d)).errKind = none := rfl
@[simp] theorem State.complete_out_errChar :
    (s.complete (.out d)).errChar = 0#8 := rfl
@[simp] theorem State.complete_out_errPos :
    (s.complete (.out d)).errPos = 0#32 := rfl
@[simp] theorem State.complete_out_valid :
    (s.complete (.out d)).valid = false := rfl

@[simp] theorem State.complete_err_obuf :
    (s.complete (.err kind char pos)).obuf = [] := rfl
@[simp] theorem State.complete_err_outLen :
    (s.complete (.err kind char pos)).outLen = 0#32 := rfl
@[simp] theorem State.complete_err_err :
    (s.complete (.err kind char pos)).err = true := rfl
@[simp] theorem State.complete_err_errKind :
    (s.complete (.err kind char pos)).errKind = some kind := rfl
@[simp] theorem State.complete_err_errChar :
    (s.complete (.err kind char pos)).errChar = char := rfl
@[simp] theorem State.complete_err_errPos :
    (s.complete (.err kind char pos)).errPos = BitVec.ofNat 32 pos := rfl
@[simp] theorem State.complete_err_valid :
    (s.complete (.err kind char pos)).valid = false := rfl

@[simp] theorem State.complete_bool_obuf :
    (s.complete (.bool b)).obuf = [] := rfl
@[simp] theorem State.complete_bool_outLen :
    (s.complete (.bool b)).outLen = 0#32 := rfl
@[simp] theorem State.complete_bool_err :
    (s.complete (.bool b)).err = false := rfl
@[simp] theorem State.complete_bool_errKind :
    (s.complete (.bool b)).errKind = none := rfl
@[simp] theorem State.complete_bool_errChar :
    (s.complete (.bool b)).errChar = 0#8 := rfl
@[simp] theorem State.complete_bool_errPos :
    (s.complete (.bool b)).errPos = 0#32 := rfl
@[simp] theorem State.complete_bool_valid :
    (s.complete (.bool b)).valid = b := rfl

end

end Sys2Proof.Machine
end

