-- ==== Sys2Proof/Laws/Ops.lean ====
section
/-!
SUPPORT. One lemma per shared operation that says everything it can do; later proofs cite these
and do not unfold the operation.
-/

namespace Sys2Proof.Machine

open Sys2Proof

/-- `N_OUT = 8 * ceil(N_IN / 5)` (00_scope.md R8). -/
theorem nOut_eq (c : Config) : c.nOut = 8 * ((c.nIn + 4) / 5) := by
  unfold Config.nOut
  split <;> omega

/-! ### The OP field -/

theorem commandWord_getLsbD (reserved : BitVec 30) (op : BitVec 2) (i : Nat) :
    (commandWord reserved op).getLsbD i = if i < 2 then op.getLsbD i else reserved.getLsbD (i - 2) :=
  BitVec.getLsbD_append

@[simp] theorem opField_commandWord (reserved : BitVec 30) (op : BitVec 2) :
    opField (commandWord reserved op) = op := by
  ext i hi
  simp [opField, commandWord_getLsbD, hi, BitVec.getLsbD_eq_getElem]

theorem commandOf_opOf (c : Command) : commandOf (opOf c) = some c := by cases c <;> rfl

theorem opOf_of_commandOf {op : BitVec 2} {c : Command} (h : commandOf op = some c) :
    op = opOf c := by
  revert h; revert c; revert op; decide

/-! ### Registers and buffers -/

theorem State.writeInLen_inLen (s : State) (wdata : Word) :
    (s.writeInLen wdata).inLen = if s.busy then s.inLen else wdata := by
  unfold State.writeInLen; split <;> rfl

theorem State.writeIbuf_ibuf (s : State) (i : Nat) (b : Byte) :
    (s.writeIbuf i b).ibuf = if s.busy then s.ibuf else s.ibuf.set i b := by
  unfold State.writeIbuf; split <;> rfl

theorem State.busy_eq_false {s : State} : s.busy = false ↔ s.engine = none := by
  simp [State.busy]

theorem State.busy_eq_true {s : State} : s.busy = true ↔ ∃ f, s.engine = some f := by
  simp [State.busy, Option.isSome_iff_exists]

/-- The engine reads written bytes exactly. -/
theorem State.inputBytes_eq {s : State} {b : List Byte}
    (h : ∀ j < b.length, s.ibuf.get? j = b[j]?) : s.inputBytes b.length = b := by
  apply List.ext_getElem?
  intro j
  by_cases hj : j < b.length
  · simp [State.inputBytes, State.readIbuf, hj, h j hj]
  · simp [State.inputBytes, hj]

@[simp] theorem State.inputBytes_length (s : State) (n : Nat) : (s.inputBytes n).length = n := by
  simp [State.inputBytes]

/-! ### CmdWrite -/

/-- Everything CmdWrite can do (R130): drop, complete as BadCommand, or start a command. -/
theorem State.cmdWrite_cases (w : Word) (s : State) :
    (s.busy = true ∧ s.cmdWrite w = s) ∨
    (s.busy = false ∧ (commandOf (opField w) = none ∨ s.config.nIn < s.inLen.toNat) ∧
      s.cmdWrite w = (s.accept (opField w)).badCommand) ∨
    (s.busy = false ∧ ∃ c, commandOf (opField w) = some c ∧ s.inLen.toNat ≤ s.config.nIn ∧
      s.cmdWrite w = (s.accept (opField w)).start c) := by
  unfold State.cmdWrite
  cases hb : s.busy with
  | true => exact .inl ⟨rfl, by simp⟩
  | false =>
    right
    cases hc : commandOf (opField w) with
    | none => exact .inl ⟨rfl, .inl rfl, by simp⟩
    | some c =>
      by_cases hn : s.config.nIn < s.inLen.toNat
      · exact .inl ⟨rfl, .inr hn, by simp [hn]⟩
      · exact .inr ⟨rfl, c, rfl, by omega, by simp [hn]⟩

/-- What CmdWrite never touches. -/
theorem State.cmdWrite_frame (w : Word) (s : State) :
    (s.cmdWrite w).inLen = s.inLen ∧ (s.cmdWrite w).ibuf = s.ibuf ∧
      (s.cmdWrite w).config = s.config ∧ (s.cmdWrite w).response = s.response ∧
      (s.cmdWrite w).inputs = s.inputs ∧ (s.cmdWrite w).draws = s.draws := by
  rcases s.cmdWrite_cases w with ⟨-, h⟩ | ⟨-, -, h⟩ | ⟨-, c, -, -, h⟩ <;>
    rw [h] <;> simp [State.badCommand]

/-! ### The engine step -/

/-- Everything the engine's turn can do when it answers a next state (R130): pass, when no command
is in flight, or complete the command. -/
theorem engineStep_cases {s t : State} (h : engineStep s = .next t) :
    (s.engine = none ∧ t = s) ∨
    ∃ f, s.engine = some f ∧ f.len.toNat ≤ s.config.nIn ∧
      (runCommand s.config f.op (s.inputBytes f.len.toNat)).outCount ≤ s.config.nOut ∧
      t = { s.complete (runCommand s.config f.op (s.inputBytes f.len.toNat)) with
            draws := s.draws + 1 } := by
  unfold engineStep at h
  split at h
  · rename_i he
    exact .inl ⟨he, by simpa using h.symm⟩
  · rename_i f he
    split at h
    · cases h
    · dsimp only at h
      split at h
      · cases h
      · exact .inr ⟨f, he, by omega, by omega, by simpa using h.symm⟩

/-- The engine completes a command whose input and output fit. -/
theorem engineStep_eq {s : State} {f : InFlight} (he : s.engine = some f)
    (hn : f.len.toNat ≤ s.config.nIn)
    (ho : (runCommand s.config f.op (s.inputBytes f.len.toNat)).outCount ≤ s.config.nOut) :
    engineStep s =
      .next { s.complete (runCommand s.config f.op (s.inputBytes f.len.toNat)) with
              draws := s.draws + 1 } := by
  unfold engineStep
  rw [he]
  simp only
  rw [if_neg (by omega), if_neg (by omega)]

end Sys2Proof.Machine
end

