-- ==== Sys2Proof/Laws/Exec.lean ====
section
/-!
SUPPORT. What an instruction and a step can do, said once.
-/

namespace Sys2Proof.Machine

open Sys2Proof

/-- Everything an instruction can do to the block before it answers (42_host_bus.md,
41_commands.md): nothing, CmdWrite, a store to IN_LEN, or a store to an IBUF byte. -/
theorem exec_cases {i : Instr} {s t : State} (h : exec i s = .next t) :
    ∃ (u : State) (rdata : Word) (resp : Resp), t = u.respond rdata resp ∧
      (u = s ∨
        (requestsCommand i = true ∧ ∃ w, u = s.cmdWrite w) ∨
        (∃ addr wdata, i = .wr addr wdata ∧ u = s.writeInLen wdata) ∨
        ∃ addr wdata, i = .wrbIbuf addr wdata ∧ addr.toNat < s.config.nIn ∧
          u = s.writeIbuf addr.toNat (byteLane wdata)) := by
  cases i with
  | encode r => cases h; exact ⟨_, _, _, rfl, .inr (.inl ⟨rfl, _, rfl⟩)⟩
  | decode r => cases h; exact ⟨_, _, _, rfl, .inr (.inl ⟨rfl, _, rfl⟩)⟩
  | validate r => cases h; exact ⟨_, _, _, rfl, .inr (.inl ⟨rfl, _, rfl⟩)⟩
  | badcmd r => cases h; exact ⟨_, _, _, rfl, .inr (.inl ⟨rfl, _, rfl⟩)⟩
  | rd addr wdata =>
    simp only [exec, execRd] at h
    split at h <;> cases h <;> exact ⟨_, _, _, rfl, .inl rfl⟩
  | wr addr wdata =>
    simp only [exec, execWr] at h
    split at h
    case h_2 hr =>
      cases h
      refine ⟨_, _, _, rfl, .inr (.inl ⟨?_, _, rfl⟩)⟩
      have h0 : addr = 0#32 := by unfold regAt at hr; grind
      simp [requestsCommand, h0]
    case h_3 => cases h; exact ⟨_, _, _, rfl, .inr (.inr (.inl ⟨_, _, rfl, rfl⟩))⟩
    all_goals cases h; exact ⟨_, _, _, rfl, .inl rfl⟩
  | rdbIbuf addr wdata =>
    simp only [exec, execRdbIbuf] at h
    split at h <;> cases h <;> exact ⟨_, _, _, rfl, .inl rfl⟩
  | wrbIbuf addr wdata =>
    simp only [exec, execWrbIbuf, indexBelow] at h
    by_cases hn : addr.toNat < s.config.nIn
    · rw [if_pos hn] at h
      cases h
      exact ⟨_, _, _, rfl, .inr (.inr (.inr ⟨_, _, rfl, hn, rfl⟩))⟩
    · rw [if_neg hn] at h
      cases h
      exact ⟨_, _, _, rfl, .inl rfl⟩
  | rdbObuf addr wdata =>
    simp only [exec, execRdbObuf] at h
    split at h <;> cases h <;> exact ⟨_, _, _, rfl, .inl rfl⟩
  | illegalWrbObuf addr wdata => cases h; exact ⟨_, _, _, rfl, .inl rfl⟩
  | illegalPort3Rd addr wdata => cases h; exact ⟨_, _, _, rfl, .inl rfl⟩
  | illegalPort3Wr addr wdata => cases h; exact ⟨_, _, _, rfl, .inl rfl⟩

/-- Every way a step can answer: one per kind of event, and the turn of the engine where none is
listed. -/
theorem step_cases {s t : State} (h : step s = .next t) :
    (s.inputs = [] ∧ engineStep s = .next t) ∨
    (∃ w rest, s.inputs = .host w :: rest ∧ exec (decode w) { s with inputs := rest } = .next t) ∨
    (∃ we addr rest, s.inputs = .subWord we addr :: rest ∧
      t = State.respondError { s with inputs := rest }) ∨
    (∃ rest, s.inputs = .engineTurn :: rest ∧ engineStep { s with inputs := rest } = .next t) ∨
    ∃ rest, s.inputs = .reset :: rest ∧ t = State.resetEvent { s with inputs := rest } := by
  unfold step at h
  split at h <;> rename_i hi
  · exact .inl ⟨hi, h⟩
  · exact .inr (.inl ⟨_, _, hi, h⟩)
  · cases h; exact .inr (.inr (.inl ⟨_, _, _, hi, rfl⟩))
  · exact .inr (.inr (.inr (.inl ⟨_, hi, h⟩)))
  · cases h; exact .inr (.inr (.inr (.inr ⟨_, hi, rfl⟩)))

end Sys2Proof.Machine
end

