-- ==== Sys2Proof/Laws/HostPrograms.lean ====
section
/-!
SUPPORT. What one transaction of a host program and one round of POLL can do.
-/

namespace Sys2Proof.Machine

open Sys2Proof

theorem HostRun.issue_eq {i : Instr} {r : HostRun} {t : State} (h : exec i r.state = .next t) :
    r.issue i = .next ⟨t, r.replies ++ t.response.toList⟩ := by
  simp [HostRun.issue, h]

@[simp] theorem execAll_nil (r : HostRun) : execAll [] r = .next r := rfl

theorem execAll_cons {i : Instr} {is : List Instr} {r : HostRun} {t : State}
    (h : exec i r.state = .next t) :
    execAll (i :: is) r = execAll is ⟨t, r.replies ++ t.response.toList⟩ := by
  simp [execAll, HostRun.issue_eq h]

/-- A host program runs on from where its first part ends. -/
theorem execAll_append {is : List Instr} {r r' : HostRun} (js : List Instr)
    (h : execAll is r = .next r') : execAll (is ++ js) r = execAll js r' := by
  induction is generalizing r with
  | nil => cases h; rfl
  | cons i is ih =>
    simp only [List.cons_append, execAll] at h ⊢
    split at h
    · exact ih h
    · cases h
    · cases h

/-- The test of POLL reads BUSY. -/
theorem pollEnds_statusWord (s : State) (resp : Resp) :
    pollEnds ⟨s.statusWord, resp⟩ = !s.busy := by
  have h : ∀ (k : BitVec 3) (v e d b : Bool),
      (0#25 ++ k ++ BitVec.ofBool v ++ BitVec.ofBool e ++ BitVec.ofBool d ++
        BitVec.ofBool b : Word).getLsbD 0 = b := by decide
  simp only [pollEnds, State.statusWord, h]

@[simp] theorem poll_nil (s : State) : poll [] s = .next ⟨s, none⟩ := rfl

/-- One round of POLL from where its read of STATUS is made (30_encoding.md R83): it ends where the
block is idle, and goes on where a command is in flight. -/
theorem poll_round {turn : Bool} {s t : State} (turns : List Bool)
    (h : (if turn then engineStep s else .next s) = .next t) :
    poll (turn :: turns) s =
      if t.busy then poll turns (t.respond t.statusWord .okay)
      else .next ⟨t.respond t.statusWord .okay, some t.statusWord⟩ := by
  have hr : exec pollRead t = .next (t.respond t.statusWord .okay) := rfl
  rw [poll]
  simp only [h, hr, State.respond_response, pollEnds_statusWord]
  cases t.busy <;> rfl

end Sys2Proof.Machine
end

