-- ==== Sys2Proof/Laws/PerInstr.lean ====
section
/-!
SUPPORT. Statements about each instruction as syntax, one lemma per constructor.

Family TableRow: the word of an instruction fits the opcode-table row of its mnemonic.
-/

namespace Sys2Proof.Laws.TableRow

open Sys2Proof

/-- Some row with the instruction's mnemonic fits its word (30_encoding.md R71, R74). -/
def Statement (i : Instr) : Prop :=
  ∃ r ∈ opcodeTable, r.mnemonic = i.mnemonic ∧ r.fits (Sys2Proof.encode i) = true

/-- The low two bits of a CMD word are its OP. -/
theorem low_bits (reserved : BitVec 30) (op : BitVec 2) :
    (commandWord reserved op).toNat &&& 3 = op.toNat := by
  unfold commandWord
  rw [show (3 : Nat) = 2 ^ 2 - 1 from rfl, Nat.and_two_pow_sub_one_eq_mod, BitVec.toNat_append]
  rw [← Nat.shiftLeft_add_eq_or_of_lt op.isLt, Nat.shiftLeft_eq]
  have := op.isLt
  omega

theorem encode (reserved : BitVec 30) : Statement (.encode reserved) :=
  ⟨⟨"ENCODE", .commandWord, 0x3, 0x1⟩, by decide, rfl,
    by simp [OpcodeRow.fits, Sys2Proof.encode, low_bits]⟩

theorem decode (reserved : BitVec 30) : Statement (.decode reserved) :=
  ⟨⟨"DECODE", .commandWord, 0x3, 0x2⟩, by decide, rfl,
    by simp [OpcodeRow.fits, Sys2Proof.encode, low_bits]⟩

theorem validate (reserved : BitVec 30) : Statement (.validate reserved) :=
  ⟨⟨"VALIDATE", .commandWord, 0x3, 0x3⟩, by decide, rfl,
    by simp [OpcodeRow.fits, Sys2Proof.encode, low_bits]⟩

theorem badcmd (reserved : BitVec 30) : Statement (.badcmd reserved) :=
  ⟨⟨"BADCMD", .commandWord, 0x3, 0x0⟩, by decide, rfl,
    by simp [OpcodeRow.fits, Sys2Proof.encode, low_bits]⟩

theorem rd (addr wdata : Word) : Statement (.rd addr wdata) :=
  ⟨⟨"RD", .busTransaction, 0x7, 0x0⟩, by decide, rfl, rfl⟩

theorem wr (addr wdata : Word) : Statement (.wr addr wdata) :=
  ⟨⟨"WR", .busTransaction, 0x7, 0x1⟩, by decide, rfl, rfl⟩

theorem rdbIbuf (addr wdata : Word) : Statement (.rdbIbuf addr wdata) :=
  ⟨⟨"RDB_IBUF", .busTransaction, 0x7, 0x2⟩, by decide, rfl, rfl⟩

theorem wrbIbuf (addr wdata : Word) : Statement (.wrbIbuf addr wdata) :=
  ⟨⟨"WRB_IBUF", .busTransaction, 0x7, 0x3⟩, by decide, rfl, rfl⟩

theorem rdbObuf (addr wdata : Word) : Statement (.rdbObuf addr wdata) :=
  ⟨⟨"RDB_OBUF", .busTransaction, 0x7, 0x4⟩, by decide, rfl, rfl⟩

theorem illegalWrbObuf (addr wdata : Word) : Statement (.illegalWrbObuf addr wdata) :=
  ⟨⟨"ILLEGAL_WRB_OBUF", .busTransaction, 0x7, 0x5⟩, by decide, rfl, rfl⟩

theorem illegalPort3Rd (addr wdata : Word) : Statement (.illegalPort3Rd addr wdata) :=
  ⟨⟨"ILLEGAL_PORT3_RD", .busTransaction, 0x7, 0x6⟩, by decide, rfl, rfl⟩

theorem illegalPort3Wr (addr wdata : Word) : Statement (.illegalPort3Wr addr wdata) :=
  ⟨⟨"ILLEGAL_PORT3_WR", .busTransaction, 0x7, 0x7⟩, by decide, rfl, rfl⟩

end Sys2Proof.Laws.TableRow
end

