-- ==== Sys2Proof/Tests/Slice0.lean ====
section
/-!
SUPPORT. The model's own tests. Expected results come from spec/95_test_vectors.md (the vector's
name stands in the comment) or are written out from the encodings of 30_encoding.md. After them,
one witness per statement that has hypotheses.
-/

namespace Sys2Proof.Tests

open Sys2Proof Sys2Proof.Machine

/-! ### Small states -/

/-- This hardware with the N_IN of 95_test_vectors.md. -/
def config64 : Config := { Config.thisHardware with nIn := 64 }

/-- After reset, N_IN = 64. -/
def idle : State := { State.reset with config := config64 }

/-- IBUF and IN_LEN hold `b`. -/
def holding (b : List Byte) : State :=
  { idle with inLen := BitVec.ofNat 32 b.length, ibuf := Memory.setFrom [] 0 b }

/-- A command in flight over `b`. -/
def flying (op : Command) (b : List Byte) : State :=
  { holding b with lastOp := opOf op, engine := some ⟨op, BitVec.ofNat 32 b.length⟩ }

/-- After ENCODE of "f" (W4). -/
def encodedF : State :=
  { holding [0x66] with
    lastOp := 0b01, done := true, outLen := 8,
    obuf := Memory.setFrom [] 0 [0x4D, 0x59, 0x3D, 0x3D, 0x3D, 0x3D, 0x3D, 0x3D] }

/-- `s` with the events `es` to come. -/
def coming (es : List Event) (s : State) : State := { s with inputs := es }

/-- The next state, or nothing. -/
def nextOf : Host.Outcome State Fault Refusal → Option State
  | .next s => some s
  | .fault _ => none
  | .refused _ => none

/-- The response a step leaves. -/
def replyOf (o : Host.Outcome State Fault Refusal) : Option Response :=
  (nextOf o).bind (·.response)

/-- "MY======". -/
def textF : List Byte := [0x4D, 0x59, 0x3D, 0x3D, 0x3D, 0x3D, 0x3D, 0x3D]

/-- "MZXW6Y==" (V-DEC-30). -/
def textBadPad : List Byte := [0x4D, 0x5A, 0x58, 0x57, 0x36, 0x59, 0x3D, 0x3D]

/-- "foobar". -/
def foobar : List Byte := [0x66, 0x6F, 0x6F, 0x62, 0x61, 0x72]

/-- "MZXW6YTBOI======" (W5). -/
def textFoobar : List Byte :=
  [0x4D, 0x5A, 0x58, 0x57, 0x36, 0x59, 0x54, 0x42, 0x4F, 0x49, 0x3D, 0x3D, 0x3D, 0x3D, 0x3D, 0x3D]

/-- This hardware's WS_SET (R8). -/
def ws : List Byte := Config.thisHardware.wsSet

/-! ### Canonical form: an ill-formed term for each check -/

theorem test_wf_encode : (Instr.encode 1#30).wellFormed = false := by decide
theorem test_wf_decode : (Instr.decode 1#30).wellFormed = false := by decide
theorem test_wf_validate : (Instr.validate 1#30).wellFormed = false := by decide
theorem test_wf_badcmd : (Instr.badcmd 1#30).wellFormed = false := by decide
theorem test_wf_rd : (Instr.rd 0 1).wellFormed = false := by decide
theorem test_wf_rdbIbuf : (Instr.rdbIbuf 0 1).wellFormed = false := by decide
theorem test_wf_wrbIbuf : (Instr.wrbIbuf 0 0x100).wellFormed = false := by decide
theorem test_wf_rdbObuf : (Instr.rdbObuf 0 1).wellFormed = false := by decide

/-! ### Decoding: a word of every constructor, written out from R71, R73, R74 -/

theorem test_decode_encode : decode (.command 0b01#32) = .encode 0 := by decide
theorem test_decode_decode : decode (.command 0b10#32) = .decode 0 := by decide
theorem test_decode_validate : decode (.command 0b11#32) = .validate 0 := by decide
theorem test_decode_badcmd : decode (.command 0b100#32) = .badcmd 1 := by decide
theorem test_decode_rd : decode (.transaction 0b000 0x0C 0) = .rd 0x0C 0 := by decide
theorem test_decode_wr : decode (.transaction 0b001 0x08 3) = .wr 0x08 3 := by decide
theorem test_decode_rdbIbuf : decode (.transaction 0b010 5 0) = .rdbIbuf 5 0 := by decide
theorem test_decode_wrbIbuf : decode (.transaction 0b011 2 0x6F) = .wrbIbuf 2 0x6F := by decide
theorem test_decode_rdbObuf : decode (.transaction 0b100 7 0) = .rdbObuf 7 0 := by decide
theorem test_decode_illegalWrbObuf :
    decode (.transaction 0b101 0 0x41) = .illegalWrbObuf 0 0x41 := by decide
theorem test_decode_illegalPort3Rd :
    decode (.transaction 0b110 0 0) = .illegalPort3Rd 0 0 := by decide
theorem test_decode_illegalPort3Wr :
    decode (.transaction 0b111 9 8) = .illegalPort3Wr 9 8 := by decide

theorem test_bytes_wrbIbuf :
    decodeBytes [0b011, 0x02, 0, 0, 0, 0x6F, 0, 0, 0] = .ok (.wrbIbuf 2 0x6F) := by decide
theorem test_bytes_encode : decodeBytes [0xFD, 0xFF, 0xFF, 0xFF] = .ok (.encode 0x3FFFFFFF) := by
  decide
theorem test_bytes_length : decodeBytes [0, 0] = .error (.frameLength 2) := by decide
theorem test_bytes_selector :
    decodeBytes [0x08, 0, 0, 0, 0, 0, 0, 0, 0] = .error (.selectorBits 0x08) := by decide

theorem test_tableWord_command : decodeTableWord 32 2 = some (.decode 0) := by decide
theorem test_tableWord_transaction : decodeTableWord 8 5 = some (.illegalWrbObuf 0 0) := by decide

/-- From reset with an open N_IN, OBUF[0] exists. -/
theorem test_fetch_from_reset :
    (replyOf (step (State.reset.withFetchWord 8 4))).map (·.resp) = some .okay := by decide

/-! ### Datapath and command functions -/

/-- V-ALPHA-01 to 04. -/
theorem test_alpha : [0, 25, 26, 31].map alpha = [0x41, 0x5A, 0x32, 0x37] := by decide

/-- V-CLS-03, 08, 11, 16, 18, 23, 24. -/
theorem test_class :
    ([0x09, 0x21, 0x32, 0x3D, 0x41, 0x7A, 0x7B] : List Byte).map (classOf ws) =
      [⟨.ws, 0⟩, ⟨.invalid, 0⟩, ⟨.data, 26⟩, ⟨.pad, 0⟩, ⟨.data, 0⟩, ⟨.data, 25⟩, ⟨.invalid, 0⟩] := by
  decide

/-- R80: the bits of the entry of `'7'`. -/
theorem test_class_bits : (classOf ws 0x37).toBits = 0b0011111#7 := by decide

/-- The tables of R104 and R106. -/
theorem test_sigCount_padBytes :
    [1, 2, 3, 4, 5].map sigCount = [2, 4, 5, 7, 8] ∧
      (List.range 9).map padBytes =
        [some 5, some 4, none, some 3, some 2, none, some 1, none, none] := by decide

/-- W4: the last significant symbol is filled with zero bits, "MY======". -/
theorem test_pack_fill : pack5to8 [0x66] = textF := by decide

/-- V-PACK-04: "MZXW6YQ=". -/
theorem test_pack : pack5to8 [0x66, 0x6F, 0x6F, 0x62] =
    [0x4D, 0x5A, 0x58, 0x57, 0x36, 0x59, 0x51, 0x3D] := by decide

/-- V-UNP-10: "MZ======", discarded bits not zero. -/
theorem test_unpack :
    unpack8to5 (([0x4D, 0x5A, 0x3D, 0x3D, 0x3D, 0x3D, 0x3D, 0x3D] : List Byte).map (classOf ws)) =
      .ok [0x66] := by decide

/-- R108's example: "MZXW6Y==" has the pad count 2. -/
theorem test_unpack_bad : unpack8to5 (textBadPad.map (classOf ws)) = .bad 2 := by decide

/-- V-SCAN-07, V-SCAN-09. -/
theorem test_scan :
    scan ws [0x4D, 0x59, 0x3D, 0x3D, 0x3D, 0x3D, 0x3D, 0x21] = .err .invalidCharacter 0x21 7 ∧
      scan ws [0x41, 0x3D, 0x42, 0x21] = .err .paddingInMiddle 0x42 2 := by decide

/-- W5, W6. -/
theorem test_encodeFn_decodeFn :
    encodeFn foobar = .out textFoobar ∧ decodeFn ws textFoobar = .out foobar := by decide

/-- V-DEC-26, V-DEC-34. -/
theorem test_decodeFn_errors :
    decodeFn ws [0x4D, 0x5A, 0x58, 0x57, 0x36, 0x59, 0x54] = .err .badLength 0 7 ∧
      decodeFn ws ([0x4D, 0x5A, 0x58, 0x57, 0x36, 0x59, 0x54, 0x42] ++ List.replicate 8 0x3D) =
        .err .badPadding 0 1 := by decide

/-- V-DEC-30, both VAL_STRICT_PAD columns. -/
theorem test_validateFn :
    validateFn ws true textBadPad = .bool false ∧ validateFn ws false textBadPad = .bool true := by
  decide

/-! ### Instructions, one step each -/

/-- V-BAD-05: bits 31:2 are ignored. -/
theorem test_encode_accepted :
    (nextOf (exec (.encode 0x3FFFFFFF) (holding [0x66]))).map (·.engine) =
      some (some ⟨.encode, 1⟩) := by decide

/-- V-BAD-04. -/
theorem test_decode_badCommand :
    (nextOf (exec (.decode 0) { idle with inLen := 0xFFFFFFFF })).map (·.statusWord) =
      some 0x56 := by decide

/-- V-BAD-03: IN_LEN = N_IN is accepted. -/
theorem test_validate_accepted :
    (nextOf (exec (.validate 0) { idle with inLen := 64 })).map (·.statusWord) =
      some 0x01 := by decide

/-- V-BAD-01. -/
theorem test_badcmd :
    (nextOf (exec (.badcmd 0) { idle with inLen := 3 })).map
      (fun t => (t.statusWord, t.lastOp, t.outLen)) = some (0x56, 0, 0) := by decide

/-- R160's example. -/
theorem test_rd_status : replyOf (exec (.rd 0x04 0) encodedF) = some ⟨0x02, .okay⟩ := by decide

/-- V-BUS-02. -/
theorem test_rd_unaligned : replyOf (exec (.rd 0x02 0) idle) = some ⟨0, .error⟩ := by decide

/-- V-BUS-04. -/
theorem test_wr_inLen :
    (nextOf (exec (.wr 0x08 0x12345678) idle)).map (·.inLen) = some 0x12345678 := by decide

/-- V-HAZ-01. -/
theorem test_wr_cmd_busy :
    (nextOf (exec (.wr 0x00 0x2) (flying .encode [0x66]))).map (·.lastOp) = some 0b01 := by decide

/-- R167's example. -/
theorem test_rdbIbuf : replyOf (exec (.rdbIbuf 0 0) (holding [0x66])) = some ⟨0x66, .okay⟩ := by
  decide

/-- V-BUS-10. -/
theorem test_wrbIbuf :
    (nextOf (exec (.wrbIbuf 5 0x1FF) idle)).map (·.ibuf) = some [(5, 0xFF)] := by decide

/-- V-HAZ-03. -/
theorem test_wrbIbuf_busy :
    (nextOf (exec (.wrbIbuf 0 0x41) (flying .encode [0x66]))).map (·.ibuf) =
      some [(0, 0x66)] := by decide

/-- R169's example. -/
theorem test_rdbObuf : replyOf (exec (.rdbObuf 0 0) encodedF) = some ⟨0x4D, .okay⟩ := by decide

/-- V-BUS-09: N_OUT = 104. -/
theorem test_rdbObuf_outside : replyOf (exec (.rdbObuf 104 0) encodedF) = some ⟨0, .error⟩ := by
  decide

/-- V-BUS-05. -/
theorem test_illegalWrbObuf :
    replyOf (exec (.illegalWrbObuf 0 0x41) encodedF) = some ⟨0, .error⟩ := by decide

/-- V-BUS-06. -/
theorem test_illegalPort3Rd : replyOf (exec (.illegalPort3Rd 0 0) idle) = some ⟨0, .error⟩ := by
  decide

theorem test_illegalPort3Wr : replyOf (exec (.illegalPort3Wr 0 0) idle) = some ⟨0, .error⟩ := by
  decide

/-- W4, at the engine step: STATUS 0x02, OUT_LEN 8. -/
theorem test_engine_encode :
    (nextOf (engineStep (flying .encode [0x66]))).map (fun t => (t.statusWord, t.outLen, t.obuf)) =
      some (0x02, 8, encodedF.obuf) := by decide

/-- V-DEC-30 at the engine step: STATUS 0x46, ERR_POS 0. -/
theorem test_engine_decode :
    (nextOf (engineStep (flying .decode textBadPad))).map
      (fun t => (t.statusWord, t.errPos, t.outLen)) = some (0x46, 0, 0) := by decide

/-- W9 at the engine step: STATUS 0x0A. -/
theorem test_engine_validate :
    (nextOf (engineStep (flying .validate textF))).map (·.statusWord) = some 0x0A := by decide

/-- V-HAZ-06. -/
theorem test_reset_event :
    (nextOf (step (coming [.reset] (flying .encode [0x66])))).map
      (fun t => (t.statusWord, t.ibuf, t.engine)) = some (0, [], none) := by decide

/-- R83: LOADX [0x66]. -/
theorem test_loadX : loadX [0x66] = [.wrbIbuf 0 0x66, .wr 0x08 1] := by decide

/-- The result of POLL. -/
def polled (o : Host.Outcome PollRun Fault Refusal) : Option Word :=
  match o with
  | .next p => p.result
  | .fault _ => none
  | .refused _ => none

/-- W4: POLL gives 0x02 once the engine has moved. -/
theorem test_poll :
    polled (poll [false, true] (flying .encode [0x66])) = some 0x02 ∧
      polled (poll [false, false] (flying .encode [0x66])) = none := by decide

/-- W4: READOUT of "MY======". -/
theorem test_readout :
    (match readout encodedF with
      | .next r => r.replies.map (·.rdata)
      | .fault _ => []
      | .refused _ => []) = [8, 0x4D, 0x59, 0x3D, 0x3D, 0x3D, 0x3D, 0x3D, 0x3D] := by decide

/-! ### Witnesses: states and operands that meet each statement's hypotheses -/

theorem witness_EncodeDecodeRoundTrip :
    decodeBytes [0x01, 0, 0, 0] = .ok (.encode 0) ∧
      decodeBytes [0b111, 1, 0, 0, 0, 2, 0, 0, 0] = .ok (.illegalPort3Wr 1 2) := by decide

theorem witness_StepRunsDecodedInstruction :
    (coming [.host (.command 1)] idle).inputs = .host (.command 1) :: [] ∧
      decodeTableWord 8 1 = some (.wr 0 0) ∧ decodeTableWord 32 1 = some (.encode 0) ∧
      (flying .encode [0x66]).inputs = [] ∧
      (coming [.engineTurn] (flying .encode [0x66])).inputs = .engineTurn :: [] := by decide

/-- The shortest chunk and a whole one. -/
theorem witness_EncodeSymbolsDrawInputBits :
    (([0x66] : List Byte).length, 2) ∈ [(1, 2), (2, 4), (3, 5), (4, 7), (5, 8)] ∧
      ((foobar.take 5).length, 8) ∈ [(1, 2), (2, 4), (3, 5), (4, 7), (5, 8)] := by decide

/-- The ends of each range, and bytes outside all of them, in WS_SET and not. -/
theorem witness_ClassInvertsAlphaAndIgnoresCase :
    (0x41#8 ≤ 0x41#8 ∧ 0x41#8 ≤ 0x5A#8) ∧ (0x41#8 ≤ 0x5A#8 ∧ 0x5A#8 ≤ 0x5A#8) ∧
      (0x61 ≤ (0x7A#8).toNat ∧ (0x7A#8).toNat ≤ 0x7A) ∧
      (0x32 ≤ (0x37#8).toNat ∧ (0x37#8).toNat ≤ 0x37) ∧ (0x3D#8).toNat = 0x3D ∧
      ∀ c ∈ ([0x0D, 0x30, 0x31, 0x38, 0x40, 0x5B, 0x60, 0x7B, 0xFF] : List Byte),
        ¬ (0x41 ≤ c.toNat ∧ c.toNat ≤ 0x5A) ∧ ¬ (0x61 ≤ c.toNat ∧ c.toNat ≤ 0x7A) ∧
          ¬ (0x32 ≤ c.toNat ∧ c.toNat ≤ 0x37) ∧ c.toNat ≠ 0x3D ∧ (c ∈ ws ↔ c = 0x0D) := by decide

/-- Groups of 0, 2, 6 and 8 pads. -/
theorem witness_DecodeAccumulatorLayout :
    let a : ClassEntry := ⟨.data, 25⟩
    let p : ClassEntry := ⟨.pad, 0⟩
    let pads (u : List ClassEntry) := u.countP fun e => e.cls = .pad
    pads [a, a, a, a, a, a, p, p] ∈ [2, 5, 7, 8] ∧ pads [p, p, p, p, p, p, p, p] ∈ [2, 5, 7, 8] ∧
      (pads [a, a, a, a, a, a, a, a], 5) ∈ [(0, 5), (1, 4), (3, 3), (4, 2), (6, 1)] ∧
      (pads [a, a, p, p, p, p, p, p], 1) ∈ [(0, 5), (1, 4), (3, 3), (4, 2), (6, 1)] := by decide

/-- "MZ======" and no group at all. -/
theorem witness_DecodeJoinsGroups :
    let text : List Byte := [0x4D, 0x5A, 0x3D, 0x3D, 0x3D, 0x3D, 0x3D, 0x3D]
    let t := text.map (classOf ws)
    (scan ws text = .ok t ∧ t.length % 8 = 0 ∧
      ∀ g < t.length / 8, unpack8to5 ((t.drop (8 * g)).take 8) = .ok [0x66]) ∧
      scan ws [] = .ok [] := by decide

/-- An error of each kind that DECODE reports. -/
theorem witness_StatusWordFields :
    (idle.errKind = none) ∧
      ∀ k ∈ [ErrKind.paddingInMiddle, .invalidCharacter, .badLength, .badPadding, .badCommand],
        ({ idle with errKind := some k } : State).errKind = some k := by decide

theorem witness_UnpackInvertsPack :
    (1 ≤ ([0x66] : List Byte).length ∧ ([0x66] : List Byte).length ≤ 5) ∧
      (1 ≤ (foobar.take 5).length ∧ (foobar.take 5).length ≤ 5) := by decide

/-- V-SCAN-03 with a trailing pad. -/
theorem witness_CleanedSequenceShape :
    scan ws [0x4D, 0x20, 0x59, 0x3D] = .ok [⟨.data, 12⟩, ⟨.data, 24⟩, ⟨.pad, 0⟩] := by decide

theorem witness_ScanReportsLowestOffendingByte :
    scan ws [0x4D] = .ok [⟨.data, 12⟩] ∧ scan ws [0x21] = .err .invalidCharacter 0x21 0 ∧
      scan ws [0x3D, 0x41] = .err .paddingInMiddle 0x41 1 := by decide

theorem witness_EncodeCharacterLaw :
    ([0x66] : List Byte) ≠ [] ∧ (foobar.take 5).length % 5 = 0 := by decide

theorem witness_DecodeLengthLaw :
    scan ws textF = .ok (textF.map (classOf ws)) ∧ (textF.map (classOf ws)).length = 8 * (0 + 1) ∧
      decodeFn ws textF = .out [0x66] ∧
      scan ws textFoobar = .ok (textFoobar.map (classOf ws)) ∧
      (textFoobar.map (classOf ws)).length = 8 * (1 + 1) ∧
      decodeFn ws textFoobar = .out foobar := by decide

theorem witness_DecodeIgnoresWhitespace :
    (∀ b ∈ ws, (classOf ws b).cls = .ws) ∧
      (0x20 :: textF ++ [0x0A]).filter (fun c => c ∉ ws) = textF.filter (fun c => c ∉ ws) ∧
      decodeFn ws textF = .out [0x66] := by decide

theorem witness_EmptyCleanedInput :
    (∀ c ∈ ([] : List Byte), (classOf ws c).cls = .ws) ∧
      (∀ c ∈ ([0x20, 0x09] : List Byte), (classOf ws c).cls = .ws) := by decide

theorem witness_DecodeErrorPriority :
    decodeFn ws [0x21] = .err .invalidCharacter 0x21 0 ∧
      decodeFn ws [0x4D] = .err .badLength 0 1 ∧
      decodeFn ws textBadPad = .err .badPadding 0 0 := by decide

theorem witness_LenientValidateDiffersAtBadPadding :
    (∃ char pos, decodeFn ws textBadPad = .err .badPadding char pos) ∧
      ¬ ∃ char pos, decodeFn ws textF = .err .badPadding char pos := by
  refine ⟨⟨0, 0, by decide⟩, ?_⟩
  rintro ⟨char, pos, h⟩
  have hf : decodeFn ws textF = .out [0x66] := by decide
  rw [hf] at h
  cases h

theorem witness_ValidateAcceptsEncodings :
    0 < ([0x66] : List Byte).length ∧ ([] : List Byte) = [] := by decide

theorem witness_ResetEventFromAnyState :
    (coming [.reset] (flying .encode [0x66])).inputs = .reset :: [] := by decide

theorem witness_UnmappedRegisterAccess :
    (0x02#32).toNat % 4 ≠ 0 ∧ 0x18 ≤ (0x18#32).toNat ∧
      (coming [.subWord true 0x08] idle).inputs = .subWord true 0x08 :: [] := by decide

theorem witness_EachTransactionTakesAFreshDraw :
    (∃ t, exec (.rd 0x0C 0) idle = .next t) ∧
      (∃ t, step (coming [.host (.command 0)] idle) = .next t) ∧
      (∃ t, step (coming [.reset] idle) = .next t) ∧
      ((coming [.engineTurn] (flying .encode [0x66])).busy = true ∧
        ∃ t, step (coming [.engineTurn] (flying .encode [0x66])) = .next t) :=
  ⟨⟨_, rfl⟩, ⟨_, rfl⟩, ⟨_, rfl⟩, rfl, _, rfl⟩

theorem witness_InLenWrite : idle.busy = false ∧ (flying .encode [0x66]).busy = true := by decide

theorem witness_ReadOnlyRegisterWriteIgnored :
    0x14#32 ∈ [0x04#32, 0x0C#32, 0x10#32, 0x14#32] := by decide

/-- The last index of the port and the first one past it, and a written byte. -/
theorem witness_IbufByteRead :
    idle.config.nIn ≤ (64#32).toNat ∧ (63#32).toNat < idle.config.nIn ∧
      (0#32).toNat < (holding [0x66]).config.nIn ∧
      (holding [0x66]).ibuf.get? (0#32).toNat = some 0x66 := by decide

theorem witness_IbufByteWrite :
    idle.config.nIn ≤ (64#32).toNat ∧
      ((63#32).toNat < (flying .encode [0x66]).config.nIn ∧ (flying .encode [0x66]).busy = true) ∧
      ((63#32).toNat < idle.config.nIn ∧ idle.busy = false) := by decide

theorem witness_ObufByteRead :
    idle.config.nOut ≤ (104#32).toNat ∧ (103#32).toNat < idle.config.nOut ∧
      (7#32).toNat < encodedF.config.nOut ∧ encodedF.busy = false ∧
      (7#32).toNat < encodedF.outLen.toNat ∧ encodedF.obuf.get? (7#32).toNat = some 0x3D := by
  decide

theorem witness_IllegalTransactionsAnswerError :
    idle.config.nIn ≤ (64#32).toNat ∧ idle.config.nOut ≤ (104#32).toNat := by decide

theorem witness_ReadsAndIllegalsFrame :
    writesNothing (.rdbObuf 103 0) = true ∧ (∃ t, exec (.rdbObuf 103 0) encodedF = .next t) ∧
      writesNothing (.illegalPort3Wr 0 0) = true ∧
      ∃ t, exec (.illegalPort3Wr 0 0) encodedF = .next t :=
  ⟨rfl, ⟨_, rfl⟩, rfl, ⟨_, rfl⟩⟩

theorem witness_DataWritesFrame :
    (0x08#32 ≠ 0x00#32 ∧ ∃ t, exec (.wr 0x08 9) encodedF = .next t) ∧
      (0x04#32 ≠ 0x00#32 ∧ 0x04#32 ≠ 0x08#32 ∧ ∃ t, exec (.wr 0x04 9) encodedF = .next t) ∧
      ∃ t, exec (.wrbIbuf 63 9) encodedF = .next t :=
  ⟨⟨by decide, _, rfl⟩, ⟨by decide, by decide, _, rfl⟩, _, rfl⟩

theorem witness_CommandRequestFrame :
    (requestsCommand (.wr 0 2) = true ∧ (flying .encode [0x66]).busy = true ∧
      ∃ t, exec (.wr 0 2) (flying .encode [0x66]) = .next t) ∧
      (requestsCommand (.decode 0) = true ∧
        ∃ t, exec (.decode 0) encodedF = .next t ∧ t.busy = true) :=
  ⟨⟨rfl, rfl, _, rfl⟩, rfl, _, rfl, rfl⟩

/-- IN_LEN at its largest good value. -/
theorem witness_CommandAccepted :
    let s : State := { idle with inLen := 64 }
    s.busy = false ∧ s.inLen.toNat ≤ s.config.nIn := by decide

/-- IN_LEN at its smallest bad value. -/
theorem witness_BadCommandCompletesAtOnce :
    idle.busy = false ∧ (Instr.badcmd 0 = .badcmd 0 ∧ 0b00#2 = 0b00#2) ∧
      let s : State := { idle with inLen := 65 }
      s.busy = false ∧ s.config.nIn < s.inLen.toNat := by decide

theorem witness_BusyCommandDropped :
    (flying .decode textF).busy = true ∧ requestsCommand (.badcmd 0) = true ∧
      requestsCommand (.wr 0 1) = true := by decide

theorem witness_BusyInputWritesDropped :
    (flying .decode textF).busy = true ∧ (63#32).toNat < (flying .decode textF).config.nIn := by
  decide

theorem holding_holdsInput (b : List Byte) (h : b.length < 2 ^ 32) : (holding b).HoldsInput b := by
  refine ⟨by simpa [holding] using h, fun j hj => ?_⟩
  simp [holding, Memory.get?_setFrom, hj]

theorem witness_CommandComputesItsFunction :
    (holding textF).busy = false ∧ (holding textF).HoldsInput textF ∧
      textF.length ≤ (holding textF).config.nIn :=
  ⟨rfl, holding_holdsInput _ (by decide), by decide⟩

/-- Two input bytes, the second of them UNSET. -/
theorem witness_UnwrittenInputReadsAsSomeByte :
    let s : State := { idle with ibuf := [(0, 0x66)], engine := some ⟨.encode, 2⟩ }
    s.engine = some ⟨.encode, 2⟩ ∧ (2#32).toNat ≤ s.config.nIn ∧ s.ibuf.get? 1 = none := by decide

/-- The longest input and none. -/
theorem witness_LoadPreparesInput :
    idle.busy = false ∧ (List.replicate 64 (0x66 : Byte)).length ≤ idle.config.nIn ∧
      (List.replicate 64 (0x66 : Byte)).length < 2 ^ 32 ∧
      ([] : List Byte).length ≤ idle.config.nIn := by decide

theorem witness_ReadoutReturnsOutput :
    encodedF.ReportsOutput textF ∧ textF.length < 2 ^ 32 ∧ textF.length ≤ encodedF.config.nOut ∧
      textF[7]? = some 0x3D := by decide

theorem witness_HardwareRoundTrip :
    (holding [0x66]).busy = false ∧ (holding [0x66]).HoldsInput [0x66] ∧
      ([0x66] : List Byte).length ≤ (holding [0x66]).config.nIn ∧
      (∃ t u, exec (.encode 0) (holding [0x66]) = .next t ∧ engineStep t = .next u ∧
        textF.length = (([0x66] : List Byte).length + 4) / 5 * 8 ∧
        ∀ j < textF.length, u.obuf.get? j = textF[j]?) ∧
      (holding textF).busy = false ∧ (holding textF).HoldsInput textF ∧
      textF.length ≤ (holding textF).config.nIn ∧
      ∃ t u, exec (.decode 0) (holding textF) = .next t ∧ engineStep t = .next u := by
  refine ⟨rfl, holding_holdsInput _ (by decide), by decide,
    ⟨_, _, rfl, rfl, by decide, by decide⟩, rfl, holding_holdsInput _ (by decide), by decide,
    _, _, rfl, rfl⟩

theorem witness_EncodeAndValidateNeverRaise :
    ((flying .validate textF).engine = some ⟨.validate, 8⟩ ∧ Command.validate ≠ .decode ∧
      ∃ t, engineStep (flying .validate textF) = .next t) ∧
      decodeFn ws textBadPad = .err .badPadding 0 0 ∧
      (decodeFn ws [0x21] = .err .invalidCharacter 0x21 0 ∧ ErrKind.invalidCharacter ≠ .badPadding) ∧
      let s : State := { idle with inLen := 65 }
      s.busy = false ∧ ∃ t, exec (.encode 0) s = .next t ∧ t.err = true :=
  ⟨⟨rfl, by decide, _, rfl⟩, by decide, by decide, rfl, _, rfl, rfl⟩

theorem witness_EngineTurnFrame :
    (∃ t, engineStep (flying .decode textF) = .next t) ∧
      ((∃ t, engineStep encodedF = .next t) ∧ encodedF.busy = false) :=
  ⟨⟨_, rfl⟩, ⟨_, rfl⟩, rfl⟩

theorem witness_CommandsAreIndependent :
    let s := flying .encode [0x66]
    let s' : State := { encodedF with engine := some ⟨.encode, 1⟩, outLen := 3 }
    s.engine = some ⟨.encode, 1⟩ ∧ s'.engine = some ⟨.encode, 1⟩ ∧ s.config = s'.config ∧
      (∀ j < (1#32).toNat, (s.ibuf.get? j).isSome ∧ s.ibuf.get? j = s'.ibuf.get? j) ∧
      (∃ t, engineStep s = .next t) ∧ (∃ t, engineStep s' = .next t) ∧
      (runCommand s.config .encode (s.inputBytes (1#32).toNat)).outCount < 2 ^ 32 :=
  ⟨rfl, rfl, rfl, by decide, ⟨_, rfl⟩, ⟨_, rfl⟩, by decide⟩

theorem encodedF_inv : encodedF.Inv :=
  ⟨by decide, by decide, by decide, by decide, by decide⟩

theorem flying_inv : (flying .decode textF).Inv :=
  ⟨by decide, by decide, by decide, by decide, by decide⟩

theorem witness_InvariantKeptByEveryStep :
    encodedF.Inv ∧ (∃ t, step encodedF = .next t) ∧ (coming [.reset] encodedF).Inv ∧
      (∃ t, step (coming [.reset] encodedF) = .next t) ∧
      (coming [.host (.command 2), .engineTurn] (flying .decode textF)).Inv ∧
      ∃ t, step (coming [.host (.command 2), .engineTurn] (flying .decode textF)) = .next t :=
  ⟨encodedF_inv, ⟨_, rfl⟩, encodedF_inv, ⟨_, rfl⟩, flying_inv, _, rfl⟩

theorem witness_StepAlwaysAnswers : (flying .decode textF).Inv := flying_inv

theorem witness_CommandInFlightCompletes :
    (flying .decode textF).Inv ∧ (flying .decode textF).inputs = [] ∧
      (flying .decode textF).busy = true :=
  ⟨flying_inv, rfl, rfl⟩

theorem witness_PollEndsWithTheCommand :
    (flying .decode textF).Inv ∧ (flying .decode textF).busy = true ∧ true ∉ [false, false] ∧
      true ∈ [false, true] ∧ (flying .decode textF).engine = some ⟨.decode, 8⟩ ∧
      (flying .decode textF).HoldsInput textF ∧
      (encodedF.Inv ∧ encodedF.busy = false ∧ [false] ≠ []) :=
  ⟨flying_inv, rfl, by decide, by decide, rfl, by decide, encodedF_inv, rfl, by decide⟩

theorem witness_ParametersNeverChange : ∃ t, step (coming [.engineTurn] encodedF) = .next t :=
  ⟨_, rfl⟩

theorem witness_BusyChangesOnlyAsStated :
    (idle.busy = false ∧ ∃ t, step (coming [.host (.command 1)] idle) = .next t ∧ t.busy = true) ∧
      ((flying .encode [0x66]).busy = true ∧
        ∃ t, step (coming [.engineTurn] (flying .encode [0x66])) = .next t ∧ t.busy = false) :=
  ⟨⟨rfl, _, rfl, by decide⟩, rfl, _, rfl, rfl⟩

theorem witness_DoneStaysUntilCommandOrReset :
    (coming [.host (.command 1)] encodedF).Inv ∧
      (∃ t, step (coming [.host (.command 1)] encodedF) = .next t ∧ t.done = false) ∧
      encodedF.done = true :=
  ⟨encodedF_inv, ⟨_, rfl, by decide⟩, rfl⟩

theorem witness_ResultsStayAfterCompletion :
    let s := coming [.host (.transaction 0b011 0 0x41)] encodedF
    s.busy = false ∧ s.done = true ∧ (∃ t, step s = .next t) ∧
      (∀ w rest, s.inputs = .host w :: rest → requestsCommand (decode w) = false) ∧
      ∀ rest, s.inputs ≠ .reset :: rest := by
  refine ⟨rfl, rfl, ⟨_, rfl⟩, ?_, ?_⟩
  · intro w rest h
    simp only [coming, List.cons.injEq, Event.host.injEq] at h
    rw [← h.1]
    decide
  · intro rest h
    simp [coming] at h

end Sys2Proof.Tests
end

section
/-!
PROOFS. The reset state (10_state.md R43): its registers hold the listed values by definition, and
a buffer with no listed index is UNSET at every index.
-/

namespace Sys2Proof.Machine

open Sys2Proof

/-! ### The buffers of `State.reset` -/

@[simp] theorem State.reset_ibuf_get? (i : Nat) : State.reset.ibuf.get? i = none :=
  Memory.get?_nil i

@[simp] theorem State.reset_obuf_get? (i : Nat) : State.reset.obuf.get? i = none :=
  Memory.get?_nil i

/-- Settles O24: the registers by the definition of `State.reset`, the buffers because a read of
the empty memory finds no byte. -/
theorem resetValues : Obligations.ResetValues := by
  unfold Obligations.ResetValues
  exact ⟨rfl, rfl, rfl, rfl, rfl, rfl, rfl, rfl, rfl, rfl, rfl, rfl,
    State.reset_ibuf_get?, State.reset_obuf_get?⟩

end Sys2Proof.Machine
end

section
/-!
PROOFS. The datapath (40_datapath.md): the entry CLASS gives to every kind of byte, and the round
trip of a chunk through PACK5TO8, CLASS and UNPACK8TO5.
-/

namespace Sys2Proof.Machine

open Sys2Proof

/-! ### CLASS, branch by branch (R102) -/

theorem classOf_upper (wsSet : List Byte) {c : Byte} (h1 : 0x41 ≤ c.toNat) (h2 : c.toNat ≤ 0x5A) :
    classOf wsSet c = ⟨.data, (c - 0x41#8).setWidth 5⟩ :=
  if_pos ⟨by bv_omega, by bv_omega⟩

theorem classOf_lower (wsSet : List Byte) {c : Byte} (h1 : 0x61 ≤ c.toNat) (h2 : c.toNat ≤ 0x7A) :
    classOf wsSet c = ⟨.data, (c - 0x61#8).setWidth 5⟩ := by
  have upper : ¬ (0x41#8 ≤ c ∧ c ≤ 0x5A#8) := by bv_omega
  have lower : 0x61#8 ≤ c ∧ c ≤ 0x7A#8 := ⟨by bv_omega, by bv_omega⟩
  rw [classOf, if_neg upper, if_pos lower]

theorem classOf_digit (wsSet : List Byte) {c : Byte} (h1 : 0x32 ≤ c.toNat) (h2 : c.toNat ≤ 0x37) :
    classOf wsSet c = ⟨.data, (c - 0x32#8 + 26#8).setWidth 5⟩ := by
  have upper : ¬ (0x41#8 ≤ c ∧ c ≤ 0x5A#8) := by bv_omega
  have lower : ¬ (0x61#8 ≤ c ∧ c ≤ 0x7A#8) := by bv_omega
  have digit : 0x32#8 ≤ c ∧ c ≤ 0x37#8 := ⟨by bv_omega, by bv_omega⟩
  rw [classOf, if_neg upper, if_neg lower, if_pos digit]

@[simp] theorem classOf_padChar (wsSet : List Byte) : classOf wsSet padChar = ⟨.pad, 0#5⟩ := rfl

/-- A byte outside the alphabet and not `'='` is whitespace or invalid, as WS_SET says. -/
theorem classOf_other (wsSet : List Byte) {c : Byte}
    (upper : ¬ (0x41 ≤ c.toNat ∧ c.toNat ≤ 0x5A)) (lower : ¬ (0x61 ≤ c.toNat ∧ c.toNat ≤ 0x7A))
    (digit : ¬ (0x32 ≤ c.toNat ∧ c.toNat ≤ 0x37)) (pad : c.toNat ≠ 0x3D) :
    classOf wsSet c = if c ∈ wsSet then ⟨.ws, 0#5⟩ else ⟨.invalid, 0#5⟩ := by
  have upper' : ¬ (0x41#8 ≤ c ∧ c ≤ 0x5A#8) := by bv_omega
  have lower' : ¬ (0x61#8 ≤ c ∧ c ≤ 0x7A#8) := by bv_omega
  have digit' : ¬ (0x32#8 ≤ c ∧ c ≤ 0x37#8) := by bv_omega
  have pad' : c ≠ padChar := fun h => pad (h ▸ rfl)
  rw [classOf, if_neg upper', if_neg lower', if_neg digit', if_neg pad']

/-! ### ALPHA and CLASS (R100, R103) -/

theorem alpha_letter {v : Symbol} (h : v.toNat ≤ 25) : alpha v = 0x41#8 + v.setWidth 8 :=
  if_pos (by bv_omega)

theorem alpha_digit {v : Symbol} (h : ¬ v.toNat ≤ 25) :
    alpha v = 0x32#8 + (v.setWidth 8 - 26#8) :=
  if_neg (by bv_omega)

theorem alpha_toNat (v : Symbol) :
    (alpha v).toNat = if v.toNat ≤ 25 then 0x41 + v.toNat else 0x32 + (v.toNat - 26) := by
  split
  next h => rw [alpha_letter h]; bv_omega
  next h => rw [alpha_digit h]; bv_omega

@[simp] theorem classOf_alpha (wsSet : List Byte) (v : Symbol) :
    classOf wsSet (alpha v) = ⟨.data, v⟩ := by
  have hv := alpha_toNat v
  by_cases h : v.toNat ≤ 25
  · rw [if_pos h] at hv
    rw [classOf_upper wsSet (by omega) (by omega), alpha_letter h]
    congr 1
    bv_omega
  · rw [if_neg h] at hv
    rw [classOf_digit wsSet (by omega) (by bv_omega), alpha_digit h]
    congr 1
    bv_omega

theorem classOf_lowercase (wsSet : List Byte) {c : Byte} (h1 : 0x41#8 ≤ c) (h2 : c ≤ 0x5A#8) :
    classOf wsSet (c + 0x20#8) = classOf wsSet c := by
  rw [classOf_lower wsSet (by bv_omega) (by bv_omega),
    classOf_upper wsSet (by bv_omega) (by bv_omega)]
  congr 2
  bv_omega

/-- Settles O7: ALPHA's two ranges, then CLASS's branches one by one. -/
theorem classInvertsAlphaAndIgnoresCase : Obligations.ClassInvertsAlphaAndIgnoresCase := by
  unfold Obligations.ClassInvertsAlphaAndIgnoresCase
  refine ⟨alpha_toNat, fun wsSet c => ⟨?upper, ?lower, ?digit, ?pad, ?other⟩, classOf_alpha,
    fun wsSet c => classOf_lowercase wsSet⟩
  case upper =>
    rintro ⟨h1, h2⟩
    rw [classOf_upper wsSet h1 h2]
    exact ⟨rfl, by bv_omega⟩
  case lower =>
    rintro ⟨h1, h2⟩
    rw [classOf_lower wsSet h1 h2]
    exact ⟨rfl, by bv_omega⟩
  case digit =>
    rintro ⟨h1, h2⟩
    rw [classOf_digit wsSet h1 h2]
    exact ⟨rfl, by bv_omega⟩
  case pad =>
    intro h
    have hc : c = padChar := BitVec.eq_of_toNat_eq h
    rw [hc, classOf_padChar]
  case other =>
    intro upper lower digit pad
    rw [classOf_other wsSet upper lower digit pad]
    exact ⟨fun h => if_pos h, fun h => if_neg h⟩

/-! ### A packed chunk, classified -/

/-- Entry `i` of a packed chunk: its symbol as DATA while significant, a PAD after. -/
def packedEntry (b : List Byte) (i : Nat) : ClassEntry :=
  if i < sigCount b.length then ⟨.data, symbolAt (encodeAcc b) i⟩ else ⟨.pad, 0#5⟩

theorem pack5to8_map_classOf (wsSet b : List Byte) :
    (pack5to8 b).map (classOf wsSet) = (List.range 8).map (packedEntry b) := by
  rw [pack5to8, List.map_map]
  congr 1
  funext i
  simp only [Function.comp_apply, packedEntry, apply_ite (classOf wsSet), classOf_alpha,
    classOf_padChar]

theorem packedEntry_cls_eq_pad (b : List Byte) (i : Nat) :
    (packedEntry b i).cls = .pad ↔ sigCount b.length ≤ i := by
  unfold packedEntry
  split <;> simp <;> omega

/-- The first `n` entries of a packed chunk hold as many pads as `n` exceeds SIGCOUNT. -/
theorem padCount_packedEntry (b : List Byte) (n : Nat) :
    padCount ((List.range n).map (packedEntry b)) = n - sigCount b.length := by
  induction n with
  | zero => simp [padCount]
  | succ n ih =>
    simp only [padCount] at ih ⊢
    rw [List.range_succ, List.map_append, List.filter_append, List.length_append, ih]
    by_cases h : sigCount b.length ≤ n <;> simp [packedEntry_cls_eq_pad, h] <;> omega

/-- The symbols that PACK5TO8 replaces by pads draw on no byte of the chunk. -/
theorem symbolAt_encodeAcc_eq_zero {b : List Byte} {i : Nat} (hi : i < 8)
    (h : sigCount b.length ≤ i) : symbolAt (encodeAcc b) i = 0#5 := by
  refine BitVec.eq_of_getLsbD_eq fun j hj => ?_
  have missing : b.length ≤ 4 - (35 - 5 * i + j) / 8 := by unfold sigCount at h; omega
  rw [symbolAt_getLsbD, encodeAcc_getLsbD b (by omega), List.getD_eq_default _ _ missing]
  simp

theorem packedEntry_value (b : List Byte) {i : Nat} (hi : i < 8) :
    (packedEntry b i).value = symbolAt (encodeAcc b) i := by
  by_cases h : i < sigCount b.length
  · rw [packedEntry, if_pos h]
  · rw [packedEntry, if_neg h, symbolAt_encodeAcc_eq_zero hi (by omega)]

/-- The decode accumulator of a packed chunk is the chunk's encode accumulator (R77, R78). -/
theorem decodeAcc_packedEntry (b : List Byte) :
    decodeAcc ((List.range 8).map (packedEntry b)) = encodeAcc b := by
  refine BitVec.eq_of_getLsbD_eq fun i hi => ?_
  have position : 35 - 5 * (7 - i / 5) + i % 5 = i := by omega
  have inSymbol : i % 5 < 5 := Nat.mod_lt _ (by decide)
  calc (decodeAcc ((List.range 8).map (packedEntry b))).getLsbD i
    _ = (packedEntry b (7 - i / 5)).value.getLsbD (i % 5) := decodeAcc_getLsbD (packedEntry b) hi
    _ = (encodeAcc b).getLsbD i := by
      rw [packedEntry_value b (by omega), symbolAt_getLsbD, position, decide_eq_true inSymbol,
        Bool.true_and]

/-- The encode accumulator holds the chunk's bytes in order (R77, R78). -/
theorem byteAt_encodeAcc (b : List Byte) {j : Nat} (hj : j < 5) :
    byteAt (encodeAcc b) j = b.getD j 0#8 := by
  refine BitVec.eq_of_getLsbD_eq fun i hi => ?_
  have byte : 4 - (32 - 8 * j + i) / 8 = j := by omega
  have bit : (32 - 8 * j + i) % 8 = i := by omega
  rw [byteAt_getLsbD, encodeAcc_getLsbD b (by omega), byte, bit, decide_eq_true hi, Bool.true_and]

/-- PADBYTES undoes SIGCOUNT (R104, R106). -/
theorem padBytes_sub_sigCount {m : Nat} (h1 : 1 ≤ m) (h5 : m ≤ 5) :
    padBytes (8 - sigCount m) = some m := by
  interval_cases m <;> rfl

/-- A legal pad count makes UNPACK8TO5 give that many bytes of the accumulator (R108). -/
theorem unpack8to5_of_padBytes {u : List ClassEntry} {nb : Nat}
    (h : padBytes (padCount u) = some nb) :
    unpack8to5 u = .ok ((List.range nb).map (byteAt (decodeAcc u))) := by
  rw [unpack8to5, h]

/-- Settles O10: the pad count gives back the chunk's length, and the accumulator its bytes. -/
theorem unpackInvertsPack : Obligations.UnpackInvertsPack := by
  unfold Obligations.UnpackInvertsPack
  intro wsSet b h1 h5
  rw [pack5to8_map_classOf]
  have pads := padCount_packedEntry b 8
  have legal := pads ▸ padBytes_sub_sigCount h1 h5
  have bytes : (List.range b.length).map (byteAt (encodeAcc b)) = b := by
    refine List.ext_getElem (by simp) fun j hj hb => ?_
    rw [List.getElem_map, List.getElem_range, byteAt_encodeAcc b (by omega),
      List.getD_eq_getElem _ _ hb]
  rw [unpack8to5_of_padBytes legal, decodeAcc_packedEntry, bytes]
  exact ⟨rfl, pads⟩

end Sys2Proof.Machine
end


section
/-!
PROOFS. ENCODE's output (41_commands.md R140 to R143): its length, its groups, and its characters.
-/

namespace Sys2Proof.Machine

open Sys2Proof

/-! ### Length and groups -/

theorem encodeBytesOut_length (s : List Byte) :
    (encodeBytesOut s).length = 8 * ((s.length + 4) / 5) := by
  simp [encodeBytesOut, List.length_flatMap, Nat.mul_comm]

/-- Settles O13: one packed chunk of 8 characters for each of the `ceil(n/5)` chunks. -/
theorem encodeLengthLaw : Obligations.EncodeLengthLaw := by
  unfold Obligations.EncodeLengthLaw
  exact fun s => ⟨encodeBytesOut s, rfl, by rw [encodeBytesOut_length, Nat.mul_comm]⟩

/-- Group `g` of ENCODE's output is chunk `g` of its input, packed. -/
theorem encodeBytesOut_group (s : List Byte) {g : Nat} (hg : 5 * g < s.length) :
    ((encodeBytesOut s).drop (8 * g)).take 8 = pack5to8 ((s.drop (5 * g)).take 5) := by
  have nonempty : s ≠ [] := List.ne_nil_of_length_pos (by omega)
  rw [encodeBytesOut_chunk nonempty]
  induction g generalizing s with
  | zero => simp
  | succ g ih =>
    have shorter : 5 * g < (s.drop 5).length := by rw [List.length_drop]; omega
    have rest : s.drop 5 ≠ [] := List.ne_nil_of_length_pos (by omega)
    have next := ih (s.drop 5) shorter rest
    rw [← encodeBytesOut_chunk rest, List.drop_drop,
      show 5 + 5 * g = 5 * (g + 1) by omega] at next
    rw [show 8 * (g + 1) = (pack5to8 (s.take 5)).length + 8 * g by rw [pack5to8_length]; omega,
      List.drop_length_add_append, next]

/-! ### Characters -/

/-- A packed chunk: its significant symbols as alphabet bytes, then padding (R105). -/
theorem pack5to8_eq {b : List Byte} (h : b.length ≤ 5) :
    pack5to8 b = ((List.range (sigCount b.length)).map (symbolAt (encodeAcc b))).map alpha ++
      List.replicate (8 - sigCount b.length) padChar := by
  have fits : sigCount b.length ≤ 8 := by unfold sigCount; omega
  refine List.ext_getElem (by simp; omega) fun i hi _ => ?_
  by_cases significant : i < sigCount b.length <;>
    simp [pack5to8, List.getElem_append, significant]

/-- ENCODE's output has SIGCOUNT(n) alphabet bytes, as a single chunk has; padding fills the rest of
its last block. -/
theorem encodeBytesOut_characters (s : List Byte) : ∃ symbols : List Symbol,
    encodeBytesOut s = symbols.map alpha ++
      List.replicate (8 * ((s.length + 4) / 5) - sigCount s.length) padChar := by
  induction s using chunk_induction with
  | nil => exact ⟨[], rfl⟩
  | chunk s nonempty ih =>
    obtain ⟨symbols, hs⟩ := ih
    have chunk := pack5to8_eq (List.length_take_le 5 s)
    have pos := List.length_pos_iff.mpr nonempty
    rw [encodeBytesOut_chunk nonempty, chunk]
    by_cases last : s.length ≤ 5
    · have one : (s.length + 4) / 5 = 1 := by omega
      rw [List.drop_eq_nil_of_le last, encodeBytesOut_nil, List.append_nil,
        List.take_of_length_le last, one]
      exact ⟨_, rfl⟩
    · have full : sigCount (s.take 5).length = 8 := by
        rw [List.length_take_of_le (by omega)]; rfl
      have pads : 8 * (((s.drop 5).length + 4) / 5) - sigCount (s.drop 5).length =
          8 * ((s.length + 4) / 5) - sigCount s.length := by
        have blocks : (s.length + 4) / 5 = (s.length - 5 + 4) / 5 + 1 := by omega
        have significant : sigCount s.length = sigCount (s.length - 5) + 8 := by
          unfold sigCount; omega
        rw [List.length_drop, blocks, significant]
        omega
      refine ⟨(List.range 8).map (symbolAt (encodeAcc (s.take 5))) ++ symbols, ?_⟩
      rw [hs, pads, full, Nat.sub_self, List.replicate_zero, List.append_nil, List.map_append,
        List.append_assoc]

/-- Settles O14: the padding of all of ENCODE's output is what its last chunk lacks. -/
theorem encodeCharacterLaw : Obligations.EncodeCharacterLaw := by
  unfold Obligations.EncodeCharacterLaw
  intro s
  obtain ⟨symbols, hs⟩ := encodeBytesOut_characters s
  refine ⟨_, rfl, symbols, _, hs, ?_, ?_, ?_⟩
  · intro nonempty
    have := List.length_pos_iff.mpr nonempty
    unfold sigCount
    omega
  · simp only [List.mem_cons, List.not_mem_nil, or_false]
    unfold sigCount
    omega
  · unfold sigCount
    omega

end Sys2Proof.Machine
end

section
/-!
PROOFS. SCAN (40_datapath.md R107): one equation per class of the next byte, and what the cleaned
sequence does not depend on: the case of letters, whitespace, and the index the scan starts at.
-/

namespace Sys2Proof.Machine

open Sys2Proof

/-! ### One byte of a scan -/

section

variable {wsSet : List Byte} {c : Byte} (s : List Byte) (i : Nat) (padSeen : Bool)

theorem scanFrom_ws (h : (classOf wsSet c).cls = .ws) :
    scanFrom wsSet (c :: s) i padSeen = scanFrom wsSet s (i + 1) padSeen := by
  rw [scanFrom, h]

theorem scanFrom_invalid (h : (classOf wsSet c).cls = .invalid) :
    scanFrom wsSet (c :: s) i padSeen = .err .invalidCharacter c i := by
  rw [scanFrom, h]

theorem scanFrom_pad (h : (classOf wsSet c).cls = .pad) :
    scanFrom wsSet (c :: s) i padSeen = (scanFrom wsSet s (i + 1) true).cons ⟨.pad, 0#5⟩ := by
  rw [scanFrom, h]

theorem scanFrom_data (h : (classOf wsSet c).cls = .data) :
    scanFrom wsSet (c :: s) i false =
      (scanFrom wsSet s (i + 1) false).cons ⟨.data, (classOf wsSet c).value⟩ := by
  rw [scanFrom, h]; rfl

theorem scanFrom_data_afterPad (h : (classOf wsSet c).cls = .data) :
    scanFrom wsSet (c :: s) i true = .err .paddingInMiddle c i := by
  rw [scanFrom, h]; rfl

end

/-! ### Case -/

/-- `lower` keeps a byte's class and value (R103). -/
@[simp] theorem classOf_comp_lower (wsSet : List Byte) (c : Byte) :
    classOf wsSet (lower c) = classOf wsSet c := by
  unfold lower
  split
  next h => exact classOf_lowercase wsSet h.1 h.2
  next => rfl

/-- The same scan result, with `f` applied to the byte an error shows. -/
def ScanResult.mapChar (f : Byte → Byte) : ScanResult → ScanResult
  | .ok t => .ok t
  | .err kind char pos => .err kind (f char) pos

theorem ScanResult.mapChar_cons (f : Byte → Byte) (e : ClassEntry) (r : ScanResult) :
    (r.cons e).mapChar f = (r.mapChar f).cons e := by
  cases r <;> rfl

theorem scanFrom_map_lower (wsSet s : List Byte) (i : Nat) (padSeen : Bool) :
    scanFrom wsSet (s.map lower) i padSeen = (scanFrom wsSet s i padSeen).mapChar lower := by
  induction s generalizing i padSeen with
  | nil => rfl
  | cons c s ih =>
    have same := congrArg ClassEntry.cls (classOf_comp_lower wsSet c)
    rw [List.map_cons]
    cases hc : (classOf wsSet c).cls with
    | ws => rw [scanFrom_ws _ _ _ hc, scanFrom_ws _ _ _ (same.trans hc), ih]
    | invalid => rw [scanFrom_invalid _ _ _ hc, scanFrom_invalid _ _ _ (same.trans hc)]; rfl
    | pad => rw [scanFrom_pad _ _ _ hc, scanFrom_pad _ _ _ (same.trans hc), ih,
        ScanResult.mapChar_cons]
    | data =>
      cases padSeen with
      | false => rw [scanFrom_data _ _ hc, scanFrom_data _ _ (same.trans hc), ih,
          ScanResult.mapChar_cons, classOf_comp_lower]
      | true => rw [scanFrom_data_afterPad _ _ hc, scanFrom_data_afterPad _ _ (same.trans hc)]; rfl

/-! ### Whitespace -/

/-- The cleaned sequence a scan gives, and nothing where it stops at an error. -/
def ScanResult.cleaned : ScanResult → Option (List ClassEntry)
  | .ok t => some t
  | .err _ _ _ => none

theorem ScanResult.cleaned_eq_some {r : ScanResult} {t : List ClassEntry} :
    r.cleaned = some t ↔ r = .ok t := by
  cases r <;> simp [ScanResult.cleaned]

theorem ScanResult.cleaned_cons (e : ClassEntry) (r : ScanResult) :
    (r.cons e).cleaned = r.cleaned.map (e :: ·) := by
  cases r <;> rfl

theorem mem_wsSet_of_classOf_ws {wsSet : List Byte} {c : Byte} (h : (classOf wsSet c).cls = .ws) :
    c ∈ wsSet := by
  by_contra hc
  unfold classOf at h
  split_ifs at h

/-- Taking the WS_SET bytes out, and starting at another index, leaves the cleaned sequence. -/
theorem scanFrom_filter_cleaned {wsSet : List Byte}
    (hws : ∀ b ∈ wsSet, (classOf wsSet b).cls = .ws) (s : List Byte) (i j : Nat) (padSeen : Bool) :
    (scanFrom wsSet (s.filter (fun c => c ∉ wsSet)) i padSeen).cleaned =
      (scanFrom wsSet s j padSeen).cleaned := by
  induction s generalizing i j padSeen with
  | nil => rfl
  | cons c s ih =>
    by_cases hmem : c ∈ wsSet
    · rw [List.filter_cons_of_neg (by simpa using hmem), scanFrom_ws _ _ _ (hws c hmem), ih]
    · rw [List.filter_cons_of_pos (by simpa using hmem)]
      cases hc : (classOf wsSet c).cls with
      | ws => exact absurd (mem_wsSet_of_classOf_ws hc) hmem
      | invalid => rw [scanFrom_invalid _ _ _ hc, scanFrom_invalid _ _ _ hc]; rfl
      | pad => simp only [scanFrom_pad _ _ _ hc, ScanResult.cleaned_cons, ih _ (j + 1)]
      | data =>
        cases padSeen with
        | false => simp only [scanFrom_data _ _ hc, ScanResult.cleaned_cons, ih _ (j + 1)]
        | true => rw [scanFrom_data_afterPad _ _ hc, scanFrom_data_afterPad _ _ hc]; rfl

/-- Two inputs that agree outside WS_SET have the same cleaned sequence, or neither has one. -/
theorem scan_cleaned_congr {wsSet s s' : List Byte}
    (hws : ∀ b ∈ wsSet, (classOf wsSet b).cls = .ws)
    (same : s'.filter (fun c => c ∉ wsSet) = s.filter (fun c => c ∉ wsSet)) :
    (scan wsSet s').cleaned = (scan wsSet s).cleaned := by
  unfold scan
  rw [← scanFrom_filter_cleaned hws s' 0, same, scanFrom_filter_cleaned hws s]

/-! ### The scan of an encoding -/

theorem scanFrom_replicate_padChar (wsSet : List Byte) (n i : Nat) (padSeen : Bool) :
    scanFrom wsSet (List.replicate n padChar) i padSeen =
      .ok ((List.replicate n padChar).map (classOf wsSet)) := by
  induction n generalizing i padSeen with
  | zero => rfl
  | succ n ih =>
    rw [List.replicate_succ, scanFrom_pad _ _ _ (by rw [classOf_padChar]), ih]
    rfl

theorem scanFrom_alphabet_append {wsSet rest : List Byte} {t : List ClassEntry}
    (hrest : ∀ j, scanFrom wsSet rest j false = .ok t) (symbols : List Symbol) (i : Nat) :
    scanFrom wsSet (symbols.map alpha ++ rest) i false =
      .ok ((symbols.map alpha).map (classOf wsSet) ++ t) := by
  induction symbols generalizing i with
  | nil => exact hrest i
  | cons v symbols ih =>
    rw [List.map_cons, List.cons_append, scanFrom_data _ _ (by rw [classOf_alpha]), ih,
      ScanResult.cons, List.map_cons, List.cons_append, classOf_alpha]

/-- ENCODE's output is cleaned as it stands: alphabet bytes, then padding. -/
theorem scan_encodeBytesOut (wsSet s : List Byte) :
    scan wsSet (encodeBytesOut s) = .ok ((encodeBytesOut s).map (classOf wsSet)) := by
  obtain ⟨symbols, hs⟩ := encodeBytesOut_characters s
  rw [hs, scan, List.map_append]
  exact scanFrom_alphabet_append (fun j => scanFrom_replicate_padChar wsSet _ j false) symbols 0

end Sys2Proof.Machine
end

section
/-!
PROOFS. DECODE and VALIDATE (41_commands.md R145 to R156): both are a function of the cleaned
sequence, and both turn on its length and on its groups' pad counts.
-/

namespace Sys2Proof.Machine

open Sys2Proof

/-! ### From the scan to the result -/

theorem decodeFn_of_scan_ok {wsSet s : List Byte} {t : List ClassEntry} (h : scan wsSet s = .ok t) :
    decodeFn wsSet s = decodeCleaned t := by
  rw [decodeFn, h]

theorem decodeFn_of_scan_err {wsSet s : List Byte} {kind : ErrKind} {char : Byte} {pos : Nat}
    (h : scan wsSet s = .err kind char pos) : decodeFn wsSet s = .err kind char pos := by
  rw [decodeFn, h]

theorem validateFn_of_scan_ok {wsSet s : List Byte} {t : List ClassEntry} (strictPad : Bool)
    (h : scan wsSet s = .ok t) :
    validateFn wsSet strictPad s = .bool (validateCleaned strictPad t) := by
  rw [validateFn, h]

theorem validateFn_of_scan_err {wsSet s : List Byte} {kind : ErrKind} {char : Byte} {pos : Nat}
    (strictPad : Bool) (h : scan wsSet s = .err kind char pos) :
    validateFn wsSet strictPad s = .bool false := by
  rw [validateFn, h]

theorem decodeFn_eq_out {wsSet s d : List Byte} :
    decodeFn wsSet s = .out d ↔ ∃ t, scan wsSet s = .ok t ∧ decodeCleaned t = .out d := by
  cases hs : scan wsSet s with
  | ok t => simp [decodeFn_of_scan_ok hs]
  | err kind char pos => simp [decodeFn_of_scan_err hs]

theorem validateFn_eq_true {wsSet s : List Byte} {strictPad : Bool} :
    validateFn wsSet strictPad s = .bool true ↔
      ∃ t, scan wsSet s = .ok t ∧ validateCleaned strictPad t = true := by
  cases hs : scan wsSet s with
  | ok t => simp [validateFn_of_scan_ok strictPad hs]
  | err kind char pos => simp [validateFn_of_scan_err strictPad hs]

/-! ### A cleaned sequence's groups -/

theorem padBytes_pos {p nb : Nat} (h : padBytes p = some nb) : 1 ≤ nb := by
  unfold padBytes at h
  split at h <;> simp at h <;> omega

theorem decodeGroups_ok_iff (t : List ClassEntry) (count : Nat) :
    (∃ d, decodeGroups t count 0 = .ok d) ↔
      ∀ g < count, (unpack8to5 ((t.drop (8 * g)).take 8)).isOk = true := by
  obtain ⟨good, bad⟩ := decodeGroups_spec t count 0
  cases hd : decodeGroups t count 0 with
  | ok d => simpa using fun g hg => good d hd g (by omega) (by omega)
  | badPadding k =>
    obtain ⟨-, hk, notOk, -⟩ := bad k hd
    simpa using ⟨k, by omega, notOk⟩

/-- The first group alone gives a byte. -/
theorem decodeGroups_succ_ne_nil {t : List ClassEntry} {count g : Nat} {d : List Byte}
    (h : decodeGroups t (count + 1) g = .ok d) : d ≠ [] := by
  rw [decodeGroups] at h
  cases hu : unpack8to5 ((t.drop (8 * g)).take 8) with
  | bad p => simp [hu] at h
  | ok d0 =>
    have first := padBytes_pos (unpack8to5_length hu)
    cases hr : decodeGroups t count (g + 1) with
    | badPadding k => simp [hu, hr, GroupsResult.prepend] at h
    | ok d' =>
      have joined : d0 ++ d' = d := by simpa [hu, hr, GroupsResult.prepend] using h
      rw [← joined]
      exact List.append_ne_nil_of_left_ne_nil (List.ne_nil_of_length_pos first) d'

/-! ### Decoding a cleaned sequence -/

/-- Everything the part of DECODE after a good scan can give (R145, R146). -/
theorem decodeCleaned_cases (t : List ClassEntry) :
    (t.length = 0 ∧ decodeCleaned t = .out []) ∨
    (t.length % 8 ≠ 0 ∧ decodeCleaned t = .err .badLength 0#8 t.length) ∨
    (t.length ≠ 0 ∧ t.length % 8 = 0 ∧
      ((∃ d, decodeGroups t (t.length / 8) 0 = .ok d ∧ decodeCleaned t = .out d) ∨
        ∃ g, decodeGroups t (t.length / 8) 0 = .badPadding g ∧
          decodeCleaned t = .err .badPadding 0#8 g)) := by
  unfold decodeCleaned
  by_cases empty : t.length = 0
  · exact .inl ⟨empty, if_pos empty⟩
  · by_cases bad : t.length % 8 ≠ 0
    · exact .inr (.inl ⟨bad, by rw [if_neg empty, if_pos bad]⟩)
    · rw [if_neg empty, if_neg bad]
      refine .inr (.inr ⟨empty, not_not.mp bad, ?_⟩)
      cases decodeGroups t (t.length / 8) 0 with
      | ok d => exact .inl ⟨d, rfl, rfl⟩
      | badPadding g => exact .inr ⟨g, rfl, rfl⟩

/-- DECODE gives no output exactly for an empty cleaned sequence (R146). -/
theorem decodeCleaned_out_ne_nil {t : List ClassEntry} {d : List Byte}
    (h : decodeCleaned t = .out d) : d ≠ [] ↔ t.length ≠ 0 := by
  rcases decodeCleaned_cases t with
    ⟨empty, e⟩ | ⟨-, e⟩ | ⟨nonempty, aligned, ⟨d', hd, e⟩ | ⟨g, -, e⟩⟩ <;>
    rw [e] at h <;> cases h
  · simp [empty]
  · obtain ⟨count, hcount⟩ : ∃ count, t.length / 8 = count + 1 :=
      Nat.exists_eq_succ_of_ne_zero (by omega)
    rw [hcount] at hd
    exact iff_of_true (decodeGroups_succ_ne_nil hd) nonempty

theorem validateCleaned_strict (t : List ClassEntry) :
    validateCleaned true t = true ↔ t.length ≠ 0 ∧ t.length % 8 = 0 ∧
      ∀ g < t.length / 8, (unpack8to5 ((t.drop (8 * g)).take 8)).isOk = true := by
  unfold validateCleaned
  split_ifs with empty bad <;> simp_all

/-- Under VAL_STRICT_PAD, a good cleaned sequence is a non-empty one that decodes (R153). -/
theorem validateCleaned_strict_iff_decodeCleaned (t : List ClassEntry) :
    validateCleaned true t = true ↔ t.length ≠ 0 ∧ ∃ d, decodeCleaned t = .out d := by
  rw [validateCleaned_strict, ← decodeGroups_ok_iff]
  rcases decodeCleaned_cases t with
    ⟨empty, e⟩ | ⟨bad, e⟩ | ⟨nonempty, aligned, ⟨d, hd, e⟩ | ⟨g, hg, e⟩⟩
  · simp [empty]
  · simp [bad, e]
  · simp [nonempty, aligned, hd, e]
  · simp [hg, e]

/-! ### The obligations -/

/-- Settles O16: the scan changes only in the byte an error shows, and an error after the scan
shows 0. -/
theorem decodeIgnoresCase : Obligations.DecodeIgnoresCase := by
  unfold Obligations.DecodeIgnoresCase
  intro wsSet s
  have lowered : scan wsSet (s.map lower) = (scan wsSet s).mapChar lower :=
    scanFrom_map_lower wsSet s 0 false
  cases hs : scan wsSet s with
  | err kind char pos =>
    rw [hs] at lowered
    rw [decodeFn_of_scan_err lowered, decodeFn_of_scan_err hs]
  | ok t =>
    rw [hs] at lowered
    rw [decodeFn_of_scan_ok lowered, decodeFn_of_scan_ok hs]
    rcases decodeCleaned_cases t with ⟨-, e⟩ | ⟨-, e⟩ | ⟨-, -, ⟨d, -, e⟩ | ⟨g, -, e⟩⟩ <;>
      rw [e] <;> rfl

/-- Settles O17: DECODE sees its input only through the cleaned sequence. -/
theorem decodeIgnoresWhitespace : Obligations.DecodeIgnoresWhitespace := by
  unfold Obligations.DecodeIgnoresWhitespace
  intro wsSet s s' d hws same hd
  obtain ⟨t, hs, ht⟩ := decodeFn_eq_out.mp hd
  have cleaned := scan_cleaned_congr hws same
  rw [ScanResult.cleaned_eq_some.mpr hs] at cleaned
  exact decodeFn_eq_out.mpr ⟨t, ScanResult.cleaned_eq_some.mp cleaned, ht⟩

/-- Settles O20: both answers are about the cleaned sequence, where VALIDATE asks what DECODE asks
and a length that is not 0. -/
theorem validateDecodeAgreement : Obligations.ValidateDecodeAgreement := by
  unfold Obligations.ValidateDecodeAgreement
  intro wsSet s
  simp only [validateFn_eq_true, decodeFn_eq_out, validateCleaned_strict_iff_decodeCleaned]
  refine ⟨⟨?_, ?_⟩, ⟨?_, ?_⟩⟩
  · rintro ⟨t, hs, nonempty, d, hd⟩
    exact ⟨d, ⟨t, hs, hd⟩, (decodeCleaned_out_ne_nil hd).mpr nonempty⟩
  · rintro ⟨d, ⟨t, hs, hd⟩, nonempty⟩
    exact ⟨t, hs, (decodeCleaned_out_ne_nil hd).mp nonempty, d, hd⟩
  · rintro ⟨t, hs, nonempty, d, hd⟩
    exact ⟨⟨d, t, hs, hd⟩, t, hs, nonempty⟩
  · rintro ⟨⟨d, t, hs, hd⟩, t', hs', nonempty⟩
    obtain rfl : t = t' := by rw [hs] at hs'; cases hs'; rfl
    exact ⟨t, hs, nonempty, d, hd⟩

/-- Every group of an encoding unpacks (R109, R140). -/
theorem unpack8to5_encodeBytesOut_group (wsSet b : List Byte) {g : Nat} (hg : 5 * g < b.length) :
    unpack8to5 ((((encodeBytesOut b).map (classOf wsSet)).drop (8 * g)).take 8) =
      .ok ((b.drop (5 * g)).take 5) := by
  rw [← List.map_drop, ← List.map_take, encodeBytesOut_group b hg]
  exact (unpackInvertsPack wsSet _ (by simp; omega) (List.length_take_le 5 _)).1

/-- Settles O23: an encoding is its own cleaned sequence, and its groups are packed chunks. -/
theorem validateAcceptsEncodings : Obligations.ValidateAcceptsEncodings := by
  unfold Obligations.ValidateAcceptsEncodings
  intro wsSet b
  refine ⟨encodeBytesOut b, rfl, fun nonempty => ?_, fun empty => by rw [empty]; rfl⟩
  refine validateFn_eq_true.mpr ⟨_, scan_encodeBytesOut wsSet b, ?_⟩
  rw [validateCleaned_strict, List.length_map, encodeBytesOut_length]
  refine ⟨by omega, by omega, fun g hg => ?_⟩
  rw [unpack8to5_encodeBytesOut_group wsSet b (by omega), UnpackResult.isOk_ok]

end Sys2Proof.Machine
end

section
/-!
PROOFS. A command completed at once as BadCommand (41_commands.md R131).
-/

namespace Sys2Proof.Machine

open Sys2Proof

theorem State.badCommand_reportsError (s : State) :
    s.badCommand.ReportsError .badCommand 0#8 0 :=
  ⟨rfl, rfl, rfl, rfl, rfl, rfl, rfl, rfl⟩

theorem State.badCommand_statusWord (s : State) : s.badCommand.statusWord = 0x56#32 := by
  have fields : s.badCommand.statusWord =
      0#25 ++ ErrKind.badCommand.code ++ BitVec.ofBool false ++ BitVec.ofBool true ++
        BitVec.ofBool true ++ BitVec.ofBool false := rfl
  rw [fields]
  decide

/-- CmdWrite of a bad command to an idle block (R131). -/
theorem State.cmdWrite_bad {w : Word} {s : State} (idle : s.busy = false)
    (bad : commandOf (opField w) = none ∨ s.config.nIn < s.inLen.toNat) :
    s.cmdWrite w = (s.accept (opField w)).badCommand := by
  rcases s.cmdWrite_cases w with ⟨busy, -⟩ | ⟨-, -, h⟩ | ⟨-, c, hc, fits, -⟩
  · simp [idle] at busy
  · exact h
  · rcases bad with none | long
    · simp [hc] at none
    · omega

/-- Settles O40: all four command words are CmdWrite of a word with the OP. -/
theorem badCommandCompletesAtOnce : Obligations.BadCommandCompletesAtOnce := by
  unfold Obligations.BadCommandCompletesAtOnce
  intro s reserved op i idle hi
  have bad : commandOf op = none ∨ s.config.nIn < s.inLen.toNat := by
    rcases hi with ⟨-, rfl⟩ | ⟨long, -⟩
    · exact .inl rfl
    · exact .inr long
  have isWrite : exec i s = .next (s.cmdWrite (commandWord reserved op)).respondWrite := by
    rcases hi with ⟨rfl, rfl⟩ | ⟨-, ⟨rfl, rfl⟩ | ⟨rfl, rfl⟩ | ⟨rfl, rfl⟩⟩ <;> rfl
  rw [State.cmdWrite_bad idle (by rwa [opField_commandWord]), opField_commandWord] at isWrite
  exact ⟨_, _, isWrite, rfl, (s.accept op).badCommand_statusWord,
    (s.accept op).badCommand_reportsError, rfl, rfl, fun _ => rfl⟩

end Sys2Proof.Machine
end

section
/-!
PROOFS. The host bus (42_host_bus.md): what each transaction answers and how it leaves the block,
on either side of its port's size.
-/

namespace Sys2Proof.Machine

open Sys2Proof

/-! ### An index and its port's size (R58, R170) -/

theorem indexBelow_of_lt {size : Nat} {addr : Word} (h : addr.toNat < size) :
    indexBelow size addr = some addr.toNat := if_pos h

theorem indexBelow_of_le {size : Nat} {addr : Word} (h : size ≤ addr.toNat) :
    indexBelow size addr = none := if_neg (Nat.not_lt.mpr h)

/-! ### Bytes and registers, idle and busy -/

theorem State.readIbuf_of_written {s : State} {i : Nat} {b : Byte} (h : s.ibuf.get? i = some b) :
    s.readIbuf i = b := by
  simp [State.readIbuf, h]

theorem State.readObuf_of_written {s : State} {i : Nat} {b : Byte} (idle : s.busy = false)
    (hi : i < s.outLen.toNat) (h : s.obuf.get? i = some b) : s.readObuf i = b := by
  have specified : ¬ (s.busy = true ∨ s.outLen.toNat ≤ i) := by simp [idle, hi]
  simp [State.readObuf, specified, h]

theorem State.writeInLen_of_idle {s : State} (wdata : Word) (idle : s.busy = false) :
    s.writeInLen wdata = { s with inLen := wdata } := by
  simp [State.writeInLen, idle]

theorem State.writeInLen_of_busy {s : State} (wdata : Word) (busy : s.busy = true) :
    s.writeInLen wdata = s := if_pos busy

theorem State.writeIbuf_of_idle {s : State} (i : Nat) (b : Byte) (idle : s.busy = false) :
    s.writeIbuf i b = { s with ibuf := s.ibuf.set i b } := by
  simp [State.writeIbuf, idle]

theorem State.writeIbuf_of_busy {s : State} (i : Nat) (b : Byte) (busy : s.busy = true) :
    s.writeIbuf i b = s := if_pos busy

/-! ### The answers -/

section

variable (s : State) {addr : Word} (wdata : Word)

theorem wr_inLen_acknowledges : AcknowledgesAs (.wr 0x08#32 wdata) s (s.writeInLen wdata) :=
  ⟨_, rfl⟩

theorem rdbIbuf_replies (h : addr.toNat < s.config.nIn) :
    Replies (.rdbIbuf addr wdata) s ((s.readIbuf addr.toNat).setWidth 32) .okay := by
  rw [Replies, exec, execRdbIbuf, indexBelow_of_lt h]
  rfl

theorem rdbIbuf_illegal (h : s.config.nIn ≤ addr.toNat) :
    Replies (.rdbIbuf addr wdata) s 0#32 .error := by
  rw [Replies, exec, execRdbIbuf, indexBelow_of_le h]
  rfl

theorem wrbIbuf_acknowledges (h : addr.toNat < s.config.nIn) :
    AcknowledgesAs (.wrbIbuf addr wdata) s (s.writeIbuf addr.toNat (byteLane wdata)) := by
  rw [AcknowledgesAs, exec, execWrbIbuf, indexBelow_of_lt h]
  exact ⟨_, rfl⟩

theorem wrbIbuf_illegal (h : s.config.nIn ≤ addr.toNat) :
    Replies (.wrbIbuf addr wdata) s 0#32 .error := by
  rw [Replies, exec, execWrbIbuf, indexBelow_of_le h]
  rfl

theorem rdbObuf_replies (h : addr.toNat < s.config.nOut) :
    Replies (.rdbObuf addr wdata) s ((s.readObuf addr.toNat).setWidth 32) .okay := by
  rw [Replies, exec, execRdbObuf, indexBelow_of_lt h]
  rfl

theorem rdbObuf_illegal (h : s.config.nOut ≤ addr.toNat) :
    Replies (.rdbObuf addr wdata) s 0#32 .error := by
  rw [Replies, exec, execRdbObuf, indexBelow_of_le h]
  rfl

end

/-! ### The obligations -/

/-- Settles O30: the write is `State.writeInLen`, which stores while idle and drops while busy. -/
theorem inLenWrite : Obligations.InLenWrite := by
  unfold Obligations.InLenWrite
  intro s wdata
  have written := wr_inLen_acknowledges s wdata
  constructor
  · intro idle
    rwa [State.writeInLen_of_idle wdata idle] at written
  · intro busy
    rwa [State.writeInLen_of_busy wdata busy] at written

/-- Settles O31: at each of the four offsets the write's arm only responds. -/
theorem readOnlyRegisterWriteIgnored : Obligations.ReadOnlyRegisterWriteIgnored := by
  unfold Obligations.ReadOnlyRegisterWriteIgnored
  intro s wdata addr haddr
  simp only [List.mem_cons, List.not_mem_nil, or_false] at haddr
  rcases haddr with rfl | rfl | rfl | rfl <;> exact ⟨_, rfl⟩

/-- Settles O32: inside the port the answer is `State.readIbuf`, whose byte is the written one
where there is one. -/
theorem ibufByteRead : Obligations.IbufByteRead := by
  unfold Obligations.IbufByteRead
  exact fun s addr wdata => ⟨rdbIbuf_illegal s wdata, fun inside =>
    ⟨s.readIbuf addr.toNat, rdbIbuf_replies s wdata inside, fun _ => State.readIbuf_of_written⟩⟩

/-- Settles O33: inside the port the write is `State.writeIbuf`, dropped while busy; while idle
the new buffer is `Memory.set` of the old one. -/
theorem ibufByteWrite : Obligations.IbufByteWrite := by
  unfold Obligations.IbufByteWrite
  intro s addr wdata
  have written (inside : addr.toNat < s.config.nIn) := wrbIbuf_acknowledges s wdata inside
  refine ⟨wrbIbuf_illegal s wdata, fun inside busy => ?_, fun inside idle => ?_⟩
  · rw [State.writeIbuf_of_busy _ _ busy] at written
    exact written inside
  · rw [State.writeIbuf_of_idle _ _ idle] at written
    exact ⟨_, written inside, Memory.get?_set s.ibuf addr.toNat (byteLane wdata)⟩

/-- Settles O34: inside the port the answer is `State.readObuf`, exact while idle and below
OUT_LEN. -/
theorem obufByteRead : Obligations.ObufByteRead := by
  unfold Obligations.ObufByteRead
  exact fun s addr wdata => ⟨rdbObuf_illegal s wdata, fun inside =>
    ⟨s.readObuf addr.toNat, rdbObuf_replies s wdata inside,
      fun idle below _ => State.readObuf_of_written idle below⟩⟩

/-- Settles O35: an illegal selector's arm only responds with ERROR, and so does a buffer
transaction outside its port. -/
theorem illegalTransactionsAnswerError : Obligations.IllegalTransactionsAnswerError := by
  unfold Obligations.IllegalTransactionsAnswerError
  exact fun s addr wdata => ⟨rfl, rfl, rfl,
    fun outside => ⟨rdbIbuf_illegal s wdata outside, wrbIbuf_illegal s wdata outside⟩,
    rdbObuf_illegal s wdata⟩

end Sys2Proof.Machine
end

section
/-!
PROOFS. Which commands can report an error, and which (60_exceptions.md R180 to R185): a codec error
only a DECODE that the engine ends, and at the request only BadCommand.
-/

namespace Sys2Proof.Machine

open Sys2Proof

/-! ### ENCODE_FN and VALIDATE_FN give no error -/

/-- VALIDATE_FN gives an answer for every input (R152). -/
theorem validateFn_eq_bool (wsSet s : List Byte) (strictPad : Bool) :
    ∃ b, validateFn wsSet strictPad s = .bool b := by
  cases hs : scan wsSet s with
  | ok t => exact ⟨_, validateFn_of_scan_ok strictPad hs⟩
  | err kind char pos => exact ⟨_, validateFn_of_scan_err strictPad hs⟩

/-- Completing ENCODE or VALIDATE clears ERR and ERR_KIND (R132). -/
theorem State.complete_runCommand_no_error (s : State) (c : Config) {op : Command}
    (notDecode : op ≠ .decode) (input : List Byte) :
    (s.complete (runCommand c op input)).err = false ∧
      (s.complete (runCommand c op input)).errKind = none := by
  cases op with
  | encode => exact ⟨rfl, rfl⟩
  | decode => exact absurd rfl notDecode
  | validate =>
    obtain ⟨b, answer⟩ := validateFn_eq_bool c.wsSet input c.valStrictPad
    rw [runCommand, answer]
    exact ⟨rfl, rfl⟩

/-! ### What DECODE would report -/

theorem validateCleaned_of_misaligned {t : List ClassEntry} (strictPad : Bool)
    (misaligned : t.length % 8 ≠ 0) : validateCleaned strictPad t = false := by
  rw [validateCleaned, if_pos misaligned, ite_self]

/-- A cleaned sequence that DECODE ends with an error does not validate; only BadPadding needs
VAL_STRICT_PAD for that (R153, R154, R185). -/
theorem validateCleaned_of_decodeCleaned_err {t : List ClassEntry} {strictPad : Bool}
    {kind : ErrKind} {char : Byte} {pos : Nat} (seen : strictPad = true ∨ kind ≠ .badPadding)
    (h : decodeCleaned t = .err kind char pos) : validateCleaned strictPad t = false := by
  rcases seen with rfl | notBadPadding
  · rw [Bool.eq_false_iff, ne_eq, validateCleaned_strict_iff_decodeCleaned]
    simp [h]
  · rcases decodeCleaned_cases t with
      ⟨-, e⟩ | ⟨misaligned, -⟩ | ⟨-, -, ⟨d, -, e⟩ | ⟨g, -, e⟩⟩
    · simp [e] at h
    · exact validateCleaned_of_misaligned strictPad misaligned
    · simp [e] at h
    · rw [e] at h
      cases h
      exact absurd rfl notBadPadding

theorem validateFn_of_decodeFn_err {wsSet s : List Byte} {strictPad : Bool} {kind : ErrKind}
    {char : Byte} {pos : Nat} (seen : strictPad = true ∨ kind ≠ .badPadding)
    (h : decodeFn wsSet s = .err kind char pos) : validateFn wsSet strictPad s = .bool false := by
  cases hs : scan wsSet s with
  | err kind' char' pos' => exact validateFn_of_scan_err strictPad hs
  | ok t =>
    rw [decodeFn_of_scan_ok hs] at h
    rw [validateFn_of_scan_ok strictPad hs, validateCleaned_of_decodeCleaned_err seen h]

/-! ### What a request can report -/

/-- CmdWrite to an idle block either starts a command, with ERR clear, or ends as BadCommand
(R130, R131). -/
theorem State.cmdWrite_errKind_of_err {w : Word} {s : State} (idle : s.busy = false)
    (err : (s.cmdWrite w).err = true) : (s.cmdWrite w).errKind = some .badCommand := by
  rcases s.cmdWrite_cases w with ⟨busy, -⟩ | ⟨-, -, bad⟩ | ⟨-, c, -, -, started⟩
  · simp [idle] at busy
  · rw [bad]
    rfl
  · simp [started] at err

/-! ### The obligation -/

/-- Settles O48: the engine completes ENCODE and VALIDATE with a result that is no error, VALIDATE
asks of the cleaned sequence all that DECODE does, and a request is one CmdWrite. -/
theorem encodeAndValidateNeverRaise : Obligations.EncodeAndValidateNeverRaise := by
  unfold Obligations.EncodeAndValidateNeverRaise
  refine ⟨fun s t f inFlight notDecode turn => ?_,
    fun wsSet s strict kind char pos seen raised => validateFn_of_decodeFn_err seen raised,
    fun s t reserved i idle request ran err => ?_⟩
  · rcases engineStep_cases turn with ⟨idle, -⟩ | ⟨f', inFlight', -, -, rfl⟩
    · simp [inFlight] at idle
    · obtain rfl : f = f' := Option.some.inj (inFlight.symm.trans inFlight')
      exact s.complete_runCommand_no_error s.config notDecode _
  · obtain ⟨w, isWrite⟩ : ∃ w, exec i s = .next (s.cmdWrite w).respondWrite := by
      rcases request with rfl | rfl <;> exact ⟨_, rfl⟩
    obtain rfl : (s.cmdWrite w).respondWrite = t := by rw [isWrite] at ran; cases ran; rfl
    exact State.cmdWrite_errKind_of_err idle err

end Sys2Proof.Machine
end

section
/-!
PROOFS. The decoder and the encoder (30_encoding.md R71 to R75): they undo each other on host words,
on byte strings, and on rows of the opcode table.
-/

namespace Sys2Proof

/-! ### Words and their bytes (log entry 4) -/

/-- A word's four bytes, the most significant first, make up the word. -/
theorem append_bytes_of_word (w : Word) :
    w.extractLsb' 24 8 ++ w.extractLsb' 16 8 ++ w.extractLsb' 8 8 ++ w.extractLsb' 0 8 = w := by
  rw [BitVec.extractLsb'_append_extractLsb'_eq_extractLsb' (by rfl),
    BitVec.extractLsb'_append_extractLsb'_eq_extractLsb' (by rfl),
    BitVec.extractLsb'_append_extractLsb'_eq_extractLsb' (by rfl), BitVec.extractLsb'_eq_self]

theorem bytesOfWord_append (b0 b1 b2 b3 : Byte) :
    bytesOfWord (b3 ++ b2 ++ b1 ++ b0) = [b0, b1, b2, b3] := by
  have byte0 : (b3 ++ b2 ++ b1 ++ b0 : Word).extractLsb' 0 8 = b0 :=
    BitVec.extractLsb'_append_eq_right
  have byte1 : (b3 ++ b2 ++ b1 ++ b0 : Word).extractLsb' 8 8 = b1 :=
    (BitVec.extractLsb'_append_eq_of_le (by decide)).trans BitVec.extractLsb'_append_eq_right
  have byte2 : (b3 ++ b2 ++ b1 ++ b0 : Word).extractLsb' 16 8 = b2 :=
    (BitVec.extractLsb'_append_eq_of_le (by decide)).trans
      ((BitVec.extractLsb'_append_eq_of_le (by decide)).trans BitVec.extractLsb'_append_eq_right)
  have byte3 : (b3 ++ b2 ++ b1 ++ b0 : Word).extractLsb' 24 8 = b3 :=
    (BitVec.extractLsb'_append_eq_of_le (by decide)).trans
      ((BitVec.extractLsb'_append_eq_of_le (by decide)).trans BitVec.extractLsb'_append_eq_left)
  rw [bytesOfWord, byte0, byte1, byte2, byte3]

theorem wordOfBytes_bytesOfInstrWord (w : InstrWord) :
    wordOfBytes (bytesOfInstrWord w) = .ok w := by
  cases w with
  | command w => simp only [bytesOfInstrWord, bytesOfWord, wordOfBytes, append_bytes_of_word]
  | transaction sel addr wdata =>
    have low : (0#5 ++ sel).extractLsb' 0 3 = sel := BitVec.extractLsb'_append_eq_right
    have high : (0#5 ++ sel).extractLsb' 3 5 = 0#5 := BitVec.extractLsb'_append_eq_left
    simp only [bytesOfInstrWord, bytesOfWord, List.cons_append, List.nil_append, wordOfBytes,
      append_bytes_of_word, low, high, if_true]

theorem bytesOfInstrWord_of_wordOfBytes {bs : List Byte} {w : InstrWord}
    (h : wordOfBytes bs = .ok w) : bytesOfInstrWord w = bs := by
  unfold wordOfBytes at h
  split at h
  next b0 b1 b2 b3 =>
    cases h
    exact bytesOfWord_append b0 b1 b2 b3
  next s a0 a1 a2 a3 d0 d1 d2 d3 =>
    split at h
    next high =>
      cases h
      have selector : 0#5 ++ s.extractLsb' 0 3 = s := by
        rw [← high]
        exact BitVec.extractLsb'_append_extractLsb'
      rw [bytesOfInstrWord, bytesOfWord_append, bytesOfWord_append, selector]
      rfl
    next => cases h
  next => cases h

/-! ### Words and instructions (R71, R74) -/

@[simp] theorem commandWord_op (reserved : BitVec 30) (op : BitVec 2) :
    (commandWord reserved op).extractLsb' 0 2 = op := BitVec.extractLsb'_append_eq_right

@[simp] theorem commandWord_reserved (reserved : BitVec 30) (op : BitVec 2) :
    (commandWord reserved op).extractLsb' 2 30 = reserved := BitVec.extractLsb'_append_eq_left

theorem decode_encode (i : Instr) : decode (encode i) = i := by
  cases i <;> simp [encode, decode, decodeCommand, decodeTransaction]

/-- A CMD word is made of its OP and its reserved bits, whatever the OP (R71, R72). -/
theorem commandWord_fields {w : Word} {op : BitVec 2} (h : w.extractLsb' 0 2 = op) :
    commandWord (w.extractLsb' 2 30) op = w := by
  rw [← h]
  exact BitVec.extractLsb'_append_extractLsb'

/-- The four OP values, each with its instruction (R71). -/
theorem decodeCommand_cases (w : Word) :
    (w.extractLsb' 0 2 = 0b01#2 ∧ decodeCommand w = .encode (w.extractLsb' 2 30)) ∨
    (w.extractLsb' 0 2 = 0b10#2 ∧ decodeCommand w = .decode (w.extractLsb' 2 30)) ∨
    (w.extractLsb' 0 2 = 0b11#2 ∧ decodeCommand w = .validate (w.extractLsb' 2 30)) ∨
    (w.extractLsb' 0 2 = 0b00#2 ∧ decodeCommand w = .badcmd (w.extractLsb' 2 30)) := by
  have every : ∀ op : BitVec 2, op = 0b01#2 ∨ op = 0b10#2 ∨ op = 0b11#2 ∨ op = 0b00#2 := by decide
  rcases every (w.extractLsb' 0 2) with h | h | h | h <;> simp [decodeCommand, h]

theorem encode_decodeCommand (w : Word) : encode (decodeCommand w) = .command w := by
  rcases decodeCommand_cases w with ⟨op, e⟩ | ⟨op, e⟩ | ⟨op, e⟩ | ⟨op, e⟩ <;>
    rw [e, encode, commandWord_fields op]

theorem encode_decodeTransaction (sel : BitVec 3) (addr wdata : Word) :
    encode (decodeTransaction sel addr wdata) = .transaction sel addr wdata := by
  have every : ∀ sel : BitVec 3, sel = 0#3 ∨ sel = 1#3 ∨ sel = 2#3 ∨ sel = 3#3 ∨ sel = 4#3 ∨
      sel = 5#3 ∨ sel = 6#3 ∨ sel = 7#3 := by decide
  rcases every sel with rfl | rfl | rfl | rfl | rfl | rfl | rfl | rfl <;> rfl

theorem encode_decode (w : InstrWord) : encode (decode w) = w := by
  cases w with
  | command w => exact encode_decodeCommand w
  | transaction sel addr wdata => exact encode_decodeTransaction sel addr wdata

/-! ### The obligations -/

theorem decodeBytes_eq_ok {bs : List Byte} {i : Instr} :
    decodeBytes bs = .ok i ↔ ∃ w, wordOfBytes bs = .ok w ∧ decode w = i := by
  unfold decodeBytes
  cases wordOfBytes bs <;> simp

/-- Settles O1: a host word is read back from its bytes, and an instruction from its host word. -/
theorem decodeEncodeRoundTrip : Obligations.DecodeEncodeRoundTrip := by
  unfold Obligations.DecodeEncodeRoundTrip
  exact fun i => decodeBytes_eq_ok.mpr ⟨_, wordOfBytes_bytesOfInstrWord _, decode_encode i⟩

/-- Settles O2: the same two layers, each undone from the other side. -/
theorem encodeDecodeRoundTrip : Obligations.EncodeDecodeRoundTrip := by
  unfold Obligations.EncodeDecodeRoundTrip
  intro bs i h
  obtain ⟨w, hw, rfl⟩ := decodeBytes_eq_ok.mp h
  rw [encodeBytes, encode_decode, bytesOfInstrWord_of_wordOfBytes hw]

/-- Settles O3: the decoder reads each word by evaluation. -/
theorem knownWordsDecode : Obligations.KnownWordsDecode := by
  unfold Obligations.KnownWordsDecode
  decide

/-- The rows that fit the word of an instruction: one, with the instruction's mnemonic. -/
theorem opcodeTable_filter_encode (i : Instr) :
    (opcodeTable.filter (·.fits (encode i))).map OpcodeRow.mnemonic = [i.mnemonic] := by
  cases i <;>
    simp [opcodeTable, encode, OpcodeRow.fits, Laws.TableRow.low_bits, Instr.mnemonic]

/-- Settles O4: every word is the word of the instruction it decodes to. -/
theorem oneTableRowFitsEachWord : Obligations.OneTableRowFitsEachWord := by
  unfold Obligations.OneTableRowFitsEachWord
  intro w
  have unique := opcodeTable_filter_encode (decode w)
  rwa [encode_decode] at unique

end Sys2Proof
end

section
/-!
PROOFS. The two accumulators, symbol by symbol and byte by byte (30_encoding.md R77, R78), and what
PACK5TO8 and UNPACK8TO5 make of them (40_datapath.md R104 to R108).
-/

namespace Sys2Proof.Machine

open Sys2Proof

/-! ### The encode accumulator and PACK5TO8 -/

/-- Bit `j` of symbol `i` is bit `35 - 5i + j` of the five bytes (R77). -/
theorem symbolAt_encodeAcc_getLsbD (b : List Byte) {i j : Nat} (hi : i < 8) (hj : j < 5) :
    (symbolAt (encodeAcc b) i).getLsbD j =
      (b.getD (4 - (35 - 5 * i + j) / 8) 0#8).getLsbD ((35 - 5 * i + j) % 8) := by
  rw [symbolAt_getLsbD, encodeAcc_getLsbD b (by omega), decide_eq_true hj, Bool.true_and]

/-- The bits of the five bytes that each symbol of the encode accumulator draws on (R77). -/
theorem symbolAt_encodeAcc (b : List Byte) :
    symbolAt (encodeAcc b) 0 = (b.getD 0 0#8).extractLsb' 3 5 ∧
    symbolAt (encodeAcc b) 1 =
      (b.getD 0 0#8).extractLsb' 0 3 ++ (b.getD 1 0#8).extractLsb' 6 2 ∧
    symbolAt (encodeAcc b) 2 = (b.getD 1 0#8).extractLsb' 1 5 ∧
    symbolAt (encodeAcc b) 3 =
      (b.getD 1 0#8).extractLsb' 0 1 ++ (b.getD 2 0#8).extractLsb' 4 4 ∧
    symbolAt (encodeAcc b) 4 =
      (b.getD 2 0#8).extractLsb' 0 4 ++ (b.getD 3 0#8).extractLsb' 7 1 ∧
    symbolAt (encodeAcc b) 5 = (b.getD 3 0#8).extractLsb' 2 5 ∧
    symbolAt (encodeAcc b) 6 =
      (b.getD 3 0#8).extractLsb' 0 2 ++ (b.getD 4 0#8).extractLsb' 5 3 ∧
    symbolAt (encodeAcc b) 7 = (b.getD 4 0#8).extractLsb' 0 5 := by
  refine ⟨?_, ?_, ?_, ?_, ?_, ?_, ?_, ?_⟩
  all_goals
    refine BitVec.eq_of_getLsbD_eq fun j hj => ?_
    rw [symbolAt_encodeAcc_getLsbD b (by decide) hj]
    simp only [BitVec.getLsbD_append, BitVec.getLsbD_extractLsb']
    interval_cases j <;> simp

theorem pack5to8_getElem? (b : List Byte) {i : Nat} (hi : i < 8) :
    (pack5to8 b)[i]? =
      some (if i < sigCount b.length then alpha (symbolAt (encodeAcc b) i) else padChar) := by
  simp [pack5to8, hi]

/-- Settles O8: the accumulator's symbols, PACK5TO8 character by character, and ENCODE_FN as it is
defined. -/
theorem encodeSymbolsDrawInputBits : Obligations.EncodeSymbolsDrawInputBits := by
  unfold Obligations.EncodeSymbolsDrawInputBits
  refine ⟨fun b => ?symbols, fun b sig hsig => ?characters, fun s => rfl⟩
  case symbols =>
    have byte (k : Nat) : (if h : k < b.length then b[k] else 0#8) = b.getD k 0#8 := by
      split <;> simp [*]
    simp only [byte]
    exact symbolAt_encodeAcc b
  case characters =>
    have count : sigCount b.length = sig := by
      simp only [List.mem_cons, Prod.mk.injEq, List.not_mem_nil, or_false] at hsig
      unfold sigCount
      omega
    refine ⟨count, pack5to8_length b, fun i hi => ?_⟩
    rw [pack5to8_getElem? b hi, count]
    rfl

/-! ### The decode accumulator and UNPACK8TO5 -/

/-- The accumulator of a group is its symbol values, the first in the top bits (R78). -/
theorem decodeAcc_eq_append (e0 e1 e2 e3 e4 e5 e6 e7 : ClassEntry) :
    decodeAcc [e0, e1, e2, e3, e4, e5, e6, e7] =
      e0.value ++ e1.value ++ e2.value ++ e3.value ++ e4.value ++ e5.value ++ e6.value ++
        e7.value := by
  refine BitVec.eq_of_getLsbD_eq fun i hi => ?_
  refine (decodeAcc_getLsbD ([e0, e1, e2, e3, e4, e5, e6, e7].getD · e0) hi).trans ?_
  simp only [BitVec.getLsbD_append]
  interval_cases i <;> rfl

theorem padCount_eq_countP (u : List ClassEntry) :
    padCount u = u.countP fun e => e.cls = .pad :=
  List.countP_eq_length_filter.symm

theorem unpack8to5_of_padBytes_eq_none {u : List ClassEntry} (h : padBytes (padCount u) = none) :
    unpack8to5 u = .bad (padCount u) := by
  rw [unpack8to5, h]

/-- Settles O9: PADBYTES decides at each of the nine pad counts, and the bytes are the
accumulator's. -/
theorem decodeAccumulatorLayout : Obligations.DecodeAccumulatorLayout := by
  unfold Obligations.DecodeAccumulatorLayout
  intro e0 e1 e2 e3 e4 e5 e6 e7
  have layout := decodeAcc_eq_append e0 e1 e2 e3 e4 e5 e6 e7
  simp only [← layout, ← padCount_eq_countP]
  generalize [e0, e1, e2, e3, e4, e5, e6, e7] = group
  refine ⟨trivial, fun bad => unpack8to5_of_padBytes_eq_none ?_,
    fun nb good => unpack8to5_of_padBytes ?_⟩
  · simp only [List.mem_cons, List.not_mem_nil, or_false] at bad
    rcases bad with h | h | h | h <;> rw [h] <;> rfl
  · simp only [List.mem_cons, Prod.mk.injEq, List.not_mem_nil, or_false] at good
    rcases good with ⟨h, rfl⟩ | ⟨h, rfl⟩ | ⟨h, rfl⟩ | ⟨h, rfl⟩ | ⟨h, rfl⟩ <;> rw [h] <;> rfl

end Sys2Proof.Machine
end

section
/-!
PROOFS. SCAN's two outcomes (40_datapath.md R107): the shape of the cleaned sequence, and where a
scan stops.
-/

namespace Sys2Proof.Machine

open Sys2Proof

theorem ScanResult.cons_eq_ok {e : ClassEntry} {r : ScanResult} {t : List ClassEntry} :
    r.cons e = .ok t ↔ ∃ t', r = .ok t' ∧ e :: t' = t := by
  cases r <;> simp [ScanResult.cons]

/-! ### The cleaned sequence -/

theorem classOf_of_pad {wsSet : List Byte} {c : Byte} (h : (classOf wsSet c).cls = .pad) :
    classOf wsSet c = ⟨.pad, 0#5⟩ := by
  unfold classOf at h ⊢
  split_ifs at h ⊢
  rfl

theorem classOf_of_data {wsSet : List Byte} {c : Byte} (h : (classOf wsSet c).cls = .data) :
    classOf wsSet c = ⟨.data, (classOf wsSet c).value⟩ := by
  rw [← h]

theorem scanFrom_ok_eq_filter {wsSet s : List Byte} {i : Nat} {padSeen : Bool}
    {t : List ClassEntry} (h : scanFrom wsSet s i padSeen = .ok t) :
    t = (s.map (classOf wsSet)).filter (fun e => e.cls ≠ .ws) := by
  induction s generalizing i padSeen t with
  | nil => cases h; rfl
  | cons c s ih =>
    rw [List.map_cons, List.filter_cons]
    cases hc : (classOf wsSet c).cls with
    | ws =>
      rw [scanFrom_ws _ _ _ hc] at h
      simpa using ih h
    | invalid =>
      rw [scanFrom_invalid _ _ _ hc] at h
      cases h
    | pad =>
      rw [scanFrom_pad _ _ _ hc, ScanResult.cons_eq_ok] at h
      obtain ⟨t', ht, rfl⟩ := h
      rw [ih ht, classOf_of_pad hc]
      rfl
    | data =>
      cases padSeen with
      | false =>
        rw [scanFrom_data _ _ hc, ScanResult.cons_eq_ok] at h
        obtain ⟨t', ht, rfl⟩ := h
        rw [ih ht, classOf_of_data hc]
        rfl
      | true =>
        rw [scanFrom_data_afterPad _ _ hc] at h
        cases h

/-- DATA entries, none once a pad has been seen, and then PAD entries. -/
theorem scanFrom_ok_shape {wsSet s : List Byte} {i : Nat} {padSeen : Bool}
    {t : List ClassEntry} (h : scanFrom wsSet s i padSeen = .ok t) :
    ∃ (data : List ClassEntry) (pads : Nat), t = data ++ List.replicate pads ⟨.pad, 0#5⟩ ∧
      (∀ e ∈ data, e.cls = .data) ∧ (padSeen = true → data = []) := by
  induction s generalizing i padSeen t with
  | nil => cases h; exact ⟨[], 0, rfl, by simp, fun _ => rfl⟩
  | cons c s ih =>
    cases hc : (classOf wsSet c).cls with
    | ws =>
      rw [scanFrom_ws _ _ _ hc] at h
      exact ih h
    | invalid =>
      rw [scanFrom_invalid _ _ _ hc] at h
      cases h
    | pad =>
      rw [scanFrom_pad _ _ _ hc, ScanResult.cons_eq_ok] at h
      obtain ⟨t', ht, rfl⟩ := h
      obtain ⟨data, pads, rfl, -, noData⟩ := ih ht
      exact ⟨[], pads + 1, by rw [noData rfl]; rfl, by simp, fun _ => rfl⟩
    | data =>
      cases padSeen with
      | false =>
        rw [scanFrom_data _ _ hc, ScanResult.cons_eq_ok] at h
        obtain ⟨t', ht, rfl⟩ := h
        obtain ⟨data, pads, rfl, isData, -⟩ := ih ht
        exact ⟨_ :: data, pads, rfl, List.forall_mem_cons.mpr ⟨rfl, isData⟩, by simp⟩
      | true =>
        rw [scanFrom_data_afterPad _ _ hc] at h
        cases h

/-- Settles O11: both facts by induction along the scan. -/
theorem cleanedSequenceShape : Obligations.CleanedSequenceShape := by
  unfold Obligations.CleanedSequenceShape
  intro wsSet s t h
  obtain ⟨data, pads, shape, isData, -⟩ := scanFrom_ok_shape h
  exact ⟨scanFrom_ok_eq_filter h, data, pads, shape, isData⟩

/-! ### The byte a scan stops at -/

/-- `Offends`, for a scan that starts with the pad-seen flag as given. -/
def OffendsAfter (wsSet : List Byte) (padSeen : Bool) (s : List Byte) (i : Nat) : Prop :=
  ∃ c, s[i]? = some c ∧
    ((classOf wsSet c).cls = .invalid ∨
      ((classOf wsSet c).cls = .data ∧
        (padSeen = true ∨ ∃ j < i, ∃ p, s[j]? = some p ∧ (classOf wsSet p).cls = .pad)))

theorem offendsAfter_false (wsSet s : List Byte) (i : Nat) :
    OffendsAfter wsSet false s i ↔ Offends wsSet s i := by
  simp [OffendsAfter, Offends]

theorem not_offendsAfter_nil (wsSet : List Byte) (padSeen : Bool) (i : Nat) :
    ¬ OffendsAfter wsSet padSeen [] i := by
  simp [OffendsAfter]

section

variable {wsSet : List Byte} {padSeen : Bool} {c : Byte} {s : List Byte}

theorem offendsAfter_zero : OffendsAfter wsSet padSeen (c :: s) 0 ↔
    (classOf wsSet c).cls = .invalid ∨ (classOf wsSet c).cls = .data ∧ padSeen = true := by
  simp [OffendsAfter]

/-- An offence after the first byte is one of the rest, with that byte's pad seen. -/
theorem offendsAfter_succ {i : Nat} : OffendsAfter wsSet padSeen (c :: s) (i + 1) ↔
    OffendsAfter wsSet (padSeen || (classOf wsSet c).cls = .pad) s i := by
  have earlier : (∃ j < i + 1, ∃ p, (c :: s)[j]? = some p ∧ (classOf wsSet p).cls = .pad) ↔
      (classOf wsSet c).cls = .pad ∨
        ∃ j < i, ∃ p, s[j]? = some p ∧ (classOf wsSet p).cls = .pad := by
    constructor
    · rintro ⟨j, hj, p, hp, pad⟩
      cases j with
      | zero =>
        obtain rfl : c = p := Option.some.inj hp
        exact .inl pad
      | succ j => exact .inr ⟨j, by omega, p, hp, pad⟩
    · rintro (pad | ⟨j, hj, p, hp, pad⟩)
      · exact ⟨0, by omega, c, rfl, pad⟩
      · exact ⟨j + 1, by omega, p, hp, pad⟩
  simp only [OffendsAfter, earlier, List.getElem?_cons_succ, Bool.or_eq_true, decide_eq_true_eq,
    or_assoc]

/-- A scan with the flag as given stops at index `k`, the lowest that offends, and reports the byte
there with its kind (R107, R184 item 2). -/
def StopsAt (wsSet : List Byte) (padSeen : Bool) (s : List Byte) (k : Nat) (kind : ErrKind)
    (char : Byte) : Prop :=
  s[k]? = some char ∧ OffendsAfter wsSet padSeen s k ∧ (∀ j < k, ¬ OffendsAfter wsSet padSeen s j) ∧
    ((classOf wsSet char).cls = .invalid ∧ kind = .invalidCharacter ∨
      (classOf wsSet char).cls = .data ∧ kind = .paddingInMiddle)

theorem stopsAt_invalid (h : (classOf wsSet c).cls = .invalid) :
    StopsAt wsSet padSeen (c :: s) 0 .invalidCharacter c :=
  ⟨rfl, offendsAfter_zero.mpr (.inl h), by simp, .inl ⟨h, rfl⟩⟩

theorem stopsAt_data_afterPad (h : (classOf wsSet c).cls = .data) :
    StopsAt wsSet true (c :: s) 0 .paddingInMiddle c :=
  ⟨rfl, offendsAfter_zero.mpr (.inr ⟨h, rfl⟩), by simp, .inr ⟨h, rfl⟩⟩

theorem not_offendsAfter_cons (first : ¬ OffendsAfter wsSet padSeen (c :: s) 0) {n : Nat}
    (rest : ∀ k < n, ¬ OffendsAfter wsSet (padSeen || (classOf wsSet c).cls = .pad) s k) :
    ∀ k < n + 1, ¬ OffendsAfter wsSet padSeen (c :: s) k
  | 0, _ => first
  | k + 1, hk => offendsAfter_succ.not.mpr (rest k (by omega))

theorem stopsAt_cons {k : Nat} {kind : ErrKind} {char : Byte}
    (first : ¬ OffendsAfter wsSet padSeen (c :: s) 0)
    (rest : StopsAt wsSet (padSeen || (classOf wsSet c).cls = .pad) s k kind char) :
    StopsAt wsSet padSeen (c :: s) (k + 1) kind char := by
  obtain ⟨atIndex, offends, lowest, isKind⟩ := rest
  exact ⟨atIndex, offendsAfter_succ.mpr offends, not_offendsAfter_cons first lowest, isKind⟩

end

/-- What a scan result says about the input it was made from. -/
def ScanResult.Describes (wsSet : List Byte) (padSeen : Bool) (s : List Byte) (i : Nat) :
    ScanResult → Prop
  | .ok _ => ∀ k, ¬ OffendsAfter wsSet padSeen s k
  | .err kind char pos => ∃ k, pos = i + k ∧ StopsAt wsSet padSeen s k kind char

/-- A scan that goes on past its first byte describes the input as the rest's scan does. -/
theorem ScanResult.describes_cons {wsSet : List Byte} {padSeen : Bool} {c : Byte} {s : List Byte}
    {i : Nat} {r : ScanResult} (first : ¬ OffendsAfter wsSet padSeen (c :: s) 0)
    (rest : r.Describes wsSet (padSeen || (classOf wsSet c).cls = .pad) s (i + 1)) :
    r.Describes wsSet padSeen (c :: s) i := by
  cases r with
  | ok t => exact fun k => not_offendsAfter_cons first (fun j _ => rest j) k k.lt_succ_self
  | err kind char pos =>
    obtain ⟨k, hpos, stops⟩ := rest
    exact ⟨k + 1, by omega, stopsAt_cons first stops⟩

theorem ScanResult.cons_describes {wsSet : List Byte} {padSeen : Bool} {s : List Byte} {i : Nat}
    (e : ClassEntry) {r : ScanResult} :
    (r.cons e).Describes wsSet padSeen s i ↔ r.Describes wsSet padSeen s i := by
  cases r <;> rfl

theorem scanFrom_describes (wsSet s : List Byte) (i : Nat) (padSeen : Bool) :
    (scanFrom wsSet s i padSeen).Describes wsSet padSeen s i := by
  induction s generalizing i padSeen with
  | nil => exact not_offendsAfter_nil wsSet padSeen
  | cons c s ih =>
    have goesOn (first : ¬ OffendsAfter wsSet padSeen (c :: s) 0) :=
      ScanResult.describes_cons first (ih (i + 1) _)
    simp only [offendsAfter_zero] at goesOn
    cases hc : (classOf wsSet c).cls with
    | ws =>
      rw [scanFrom_ws _ _ _ hc]
      simpa [hc] using goesOn
    | invalid =>
      rw [scanFrom_invalid _ _ _ hc]
      exact ⟨0, rfl, stopsAt_invalid hc⟩
    | pad =>
      rw [scanFrom_pad _ _ _ hc, ScanResult.cons_describes]
      simpa [hc] using goesOn
    | data =>
      cases padSeen with
      | false =>
        rw [scanFrom_data _ _ hc, ScanResult.cons_describes]
        simpa [hc] using goesOn
      | true =>
        rw [scanFrom_data_afterPad _ _ hc]
        exact ⟨0, rfl, stopsAt_data_afterPad hc⟩

/-- Settles O12: what `scanFrom` describes, from index 0 with no pad seen. -/
theorem scanReportsLowestOffendingByte : Obligations.ScanReportsLowestOffendingByte := by
  unfold Obligations.ScanReportsLowestOffendingByte
  intro wsSet s
  have described : (scan wsSet s).Describes wsSet false s 0 := scanFrom_describes wsSet s 0 false
  constructor
  · intro t h
    rw [h] at described
    exact fun i => (offendsAfter_false wsSet s i).not.mp (described i)
  · intro kind char pos h
    rw [h] at described
    obtain ⟨k, hpos, atIndex, offends, lowest, isKind⟩ := described
    obtain rfl : pos = k := by omega
    simp only [offendsAfter_false] at offends lowest
    exact ⟨atIndex, offends, lowest, isKind⟩

/-- A character error is one of two kinds, at an index of the input. -/
theorem scan_err {wsSet s : List Byte} {kind : ErrKind} {char : Byte} {pos : Nat}
    (h : scan wsSet s = .err kind char pos) :
    (kind = .invalidCharacter ∨ kind = .paddingInMiddle) ∧ pos < s.length := by
  obtain ⟨atIndex, -, -, isKind⟩ := (scanReportsLowestOffendingByte wsSet s).2 kind char pos h
  exact ⟨isKind.imp And.right And.right, (List.getElem?_eq_some_iff.mp atIndex).1⟩

end Sys2Proof.Machine
end

section
/-!
PROOFS. DECODE group by group (41_commands.md R145 to R147, R154, R155): what the groups of a
cleaned sequence unpack to makes up the output, and the first bad group is the one reported.
-/

namespace Sys2Proof.Machine

open Sys2Proof

/-! ### The output is the groups' bytes -/

/-- The bytes of a good group, nothing for a bad one. -/
def UnpackResult.bytes : UnpackResult → List Byte
  | .ok d => d
  | .bad _ => []

theorem UnpackResult.eq_ok_bytes {r : UnpackResult} (h : r.isOk = true) : r = .ok r.bytes := by
  cases r with
  | ok d => rfl
  | bad p => cases h

theorem decodeGroups_of_ok {t : List ClassEntry} {bytes : Nat → List Byte} {count g : Nat}
    (h : ∀ k, g ≤ k → k < g + count → unpack8to5 ((t.drop (8 * k)).take 8) = .ok (bytes k)) :
    decodeGroups t count g = .ok ((List.range' g count).flatMap bytes) := by
  induction count generalizing g with
  | zero => rfl
  | succ count ih =>
    have rest := ih (g := g + 1) fun k hk hlt => h k (by omega) (by omega)
    rw [decodeGroups, h g le_rfl (by omega), rest, List.range'_succ, List.flatMap_cons]
    rfl

theorem decodeCleaned_of_ok {t : List ClassEntry} {bytes : Nat → List Byte}
    (aligned : t.length % 8 = 0)
    (h : ∀ g < t.length / 8, unpack8to5 ((t.drop (8 * g)).take 8) = .ok (bytes g)) :
    decodeCleaned t = .out ((List.range (t.length / 8)).flatMap bytes) := by
  have joined : decodeGroups t (t.length / 8) 0 =
      .ok ((List.range (t.length / 8)).flatMap bytes) := by
    rw [List.range_eq_range']
    exact decodeGroups_of_ok fun k _ hk => h k (by omega)
  rcases decodeCleaned_cases t with ⟨empty, e⟩ | ⟨bad, -⟩ | ⟨-, -, ⟨d, hd, e⟩ | ⟨g, hg, -⟩⟩
  · rw [e, empty]
    rfl
  · exact absurd aligned bad
  · rw [joined] at hd
    cases hd
    exact e
  · rw [joined] at hg
    cases hg

/-- Settles O59: the scan's cleaned sequence, then its groups. -/
theorem decodeJoinsGroups : Obligations.DecodeJoinsGroups := by
  unfold Obligations.DecodeJoinsGroups
  intro wsSet s t bytes hs aligned h
  rw [decodeFn_of_scan_ok hs, decodeCleaned_of_ok aligned h]

/-! ### DECODE of an ENCODE (R155) -/

theorem flatMap_chunks (b : List Byte) (n : Nat) :
    ((List.range n).flatMap fun k => (b.drop (5 * k)).take 5) = b.take (5 * n) := by
  induction n with
  | zero => simp
  | succ n ih => simp [List.range_succ, ih, Nat.mul_succ, List.take_add]

theorem decodeFn_encodeBytesOut (wsSet b : List Byte) :
    decodeFn wsSet (encodeBytesOut b) = .out b := by
  have groups : ((encodeBytesOut b).map (classOf wsSet)).length = 8 * ((b.length + 4) / 5) := by
    rw [List.length_map, encodeBytesOut_length]
  have count : ((encodeBytesOut b).map (classOf wsSet)).length / 8 = (b.length + 4) / 5 := by omega
  rw [decodeFn_of_scan_ok (scan_encodeBytesOut wsSet b), decodeCleaned_of_ok (by omega)
      fun g hg => unpack8to5_encodeBytesOut_group wsSet b (by omega),
    count, flatMap_chunks, List.take_of_length_le (by omega)]

/-- Settles O22: an encoding is its own cleaned sequence, its groups unpack to the input's chunks,
and the chunks make up the input. -/
theorem decodeInvertsEncode : Obligations.DecodeInvertsEncode := by
  unfold Obligations.DecodeInvertsEncode
  exact fun wsSet b => ⟨encodeBytesOut b, rfl, decodeFn_encodeBytesOut wsSet b⟩

/-! ### The length of the output (R147) -/

/-- A successful DECODE, taken apart into its groups. -/
theorem decodeCleaned_eq_out {t : List ClassEntry} {d : List Byte} (h : decodeCleaned t = .out d) :
    t.length % 8 = 0 ∧ (∀ g < t.length / 8, (unpack8to5 ((t.drop (8 * g)).take 8)).isOk = true) ∧
      d = (List.range (t.length / 8)).flatMap fun g =>
        (unpack8to5 ((t.drop (8 * g)).take 8)).bytes := by
  have good : t.length % 8 = 0 ∧
      ∀ g < t.length / 8, (unpack8to5 ((t.drop (8 * g)).take 8)).isOk = true := by
    rcases decodeCleaned_cases t with
      ⟨empty, -⟩ | ⟨-, e⟩ | ⟨-, aligned, ⟨d', hd, -⟩ | ⟨g, -, e⟩⟩
    · exact ⟨by omega, fun g hg => by omega⟩
    · rw [e] at h
      cases h
    · exact ⟨aligned, (decodeGroups_ok_iff t _).mp ⟨d', hd⟩⟩
    · rw [e] at h
      cases h
  obtain ⟨aligned, groups⟩ := good
  rw [decodeCleaned_of_ok aligned fun g hg => UnpackResult.eq_ok_bytes (groups g hg)] at h
  cases h
  exact ⟨aligned, groups, rfl⟩

theorem padBytes_le {p nb : Nat} (h : padBytes p = some nb) : nb ≤ 5 := by
  unfold padBytes at h
  split at h <;> simp at h <;> omega

theorem unpack8to5_bytes_length {u : List ClassEntry} (h : (unpack8to5 u).isOk = true) :
    padBytes (padCount u) = some (unpack8to5 u).bytes.length :=
  unpack8to5_length (UnpackResult.eq_ok_bytes h)

theorem padCount_of_data {u : List ClassEntry} (h : ∀ e ∈ u, e.cls = .data) : padCount u = 0 := by
  rw [padCount_eq_countP, List.countP_eq_zero]
  intro e he
  simp [h e he]

theorem padCount_replicate (n : Nat) : padCount (List.replicate n ⟨.pad, 0#5⟩) = n := by
  simp [padCount]

/-- Where the last group is good, it does not consist of pads, so all before it is DATA. -/
theorem data_of_last_group_ok {t data : List ClassEntry} {pads g : Nat}
    (shape : t = data ++ List.replicate pads ⟨.pad, 0#5⟩) (isData : ∀ e ∈ data, e.cls = .data)
    (length : t.length = 8 * (g + 1)) (last : (unpack8to5 (t.drop (8 * g))).isOk = true) :
    ∀ e ∈ t.take (8 * g), e.cls = .data := by
  have enough : 8 * g ≤ data.length := by
    by_contra short
    rw [shape, List.length_append, List.length_replicate] at length
    have allPads : t.drop (8 * g) = List.replicate 8 ⟨.pad, 0#5⟩ := by
      rw [shape, List.drop_append, List.drop_eq_nil_of_le (by omega), List.nil_append,
        List.drop_replicate]
      congr 1
      omega
    rw [allPads, unpack8to5_isOk, padCount_replicate] at last
    exact last rfl
  rw [shape, List.take_append_of_le_length enough]
  exact fun e he => isData e (List.mem_of_mem_take he)

/-- Groups of DATA entries give 5 bytes each. -/
theorem length_flatMap_bytes_of_data {t : List ClassEntry} {g : Nat}
    (good : ∀ k < g, (unpack8to5 ((t.drop (8 * k)).take 8)).isOk = true)
    (isData : ∀ e ∈ t.take (8 * g), e.cls = .data) :
    ((List.range g).flatMap fun k => (unpack8to5 ((t.drop (8 * k)).take 8)).bytes).length =
      5 * g := by
  have five : ∀ k ∈ List.range g, (unpack8to5 ((t.drop (8 * k)).take 8)).bytes.length = 5 := by
    intro k hk
    rw [List.mem_range] at hk
    have inFront : ∀ e ∈ (t.drop (8 * k)).take 8, e.cls = .data := by
      intro e he
      have within : (t.drop (8 * k)).take 8 = ((t.take (8 * g)).drop (8 * k)).take 8 := by
        rw [List.drop_take, List.take_take, min_eq_left (by omega)]
      rw [within] at he
      exact isData e (List.mem_of_mem_drop (List.mem_of_mem_take he))
    have count := unpack8to5_bytes_length (good k hk)
    rw [padCount_of_data inFront] at count
    exact (Option.some.inj count).symm
  rw [List.length_flatMap, List.map_congr_left five]
  simp [Nat.mul_comm]

/-- Settles O15: the last group is good, so the pads of the cleaned sequence all stand in it. -/
theorem decodeLengthLaw : Obligations.DecodeLengthLaw := by
  unfold Obligations.DecodeLengthLaw
  intro wsSet s t d g hs length hd
  rw [decodeFn_of_scan_ok hs] at hd
  obtain ⟨-, good, rfl⟩ := decodeCleaned_eq_out hd
  rw [show t.length / 8 = g + 1 by omega] at good ⊢
  have lastGroup : (t.drop (8 * g)).take 8 = t.drop (8 * g) :=
    List.take_of_length_le (by rw [List.length_drop]; omega)
  have last := good g (by omega)
  rw [lastGroup] at last
  obtain ⟨data, pads, shape, isData, -⟩ := scanFrom_ok_shape hs
  have before := data_of_last_group_ok shape isData length last
  refine ⟨before, _, unpack8to5_bytes_length last, ?_⟩
  rw [List.range_succ, List.flatMap_append, List.length_append,
    length_flatMap_bytes_of_data (fun k hk => good k (by omega)) before, List.flatMap_singleton,
    lastGroup]

/-! ### Errors and VALIDATE -/

/-- The group reported is the lowest bad one (R145). -/
theorem decodeGroups_eq_badPadding {t : List ClassEntry} {count g : Nat} :
    decodeGroups t count 0 = .badPadding g ↔
      g < count ∧ (unpack8to5 ((t.drop (8 * g)).take 8)).isOk = false ∧
        ∀ k < g, (unpack8to5 ((t.drop (8 * k)).take 8)).isOk = true := by
  obtain ⟨good, bad⟩ := decodeGroups_spec t count 0
  constructor
  · intro h
    obtain ⟨-, inside, notOk, before⟩ := bad g h
    exact ⟨by omega, notOk, fun k hk => before k k.zero_le hk⟩
  · rintro ⟨inside, notOk, before⟩
    cases hd : decodeGroups t count 0 with
    | ok d => simp [good d hd g g.zero_le (by omega)] at notOk
    | badPadding k =>
      obtain ⟨-, -, notOk', before'⟩ := bad k hd
      rcases lt_trichotomy g k with lower | rfl | higher
      · simp [before' g g.zero_le lower] at notOk
      · rfl
      · simp [before k higher] at notOk'

theorem unpack8to5_isOk_eq_false {u : List ClassEntry} :
    (unpack8to5 u).isOk = false ↔ padBytes (padCount u) = none := by
  rw [← Bool.not_eq_true, unpack8to5_isOk, not_ne_iff]

/-- The errors of DECODE after a good scan, in their order (R145, R184). -/
theorem decodeCleaned_eq_err {t : List ClassEntry} {kind : ErrKind} {char : Byte} {pos : Nat} :
    decodeCleaned t = .err kind char pos ↔ char = 0#8 ∧
      (kind = .badLength ∧ pos = t.length ∧ t.length % 8 ≠ 0 ∨
        kind = .badPadding ∧ t.length % 8 = 0 ∧
          decodeGroups t (t.length / 8) 0 = .badPadding pos) := by
  rcases decodeCleaned_cases t with
    ⟨empty, e⟩ | ⟨misaligned, e⟩ | ⟨-, aligned, ⟨d, hd, e⟩ | ⟨g, hg, e⟩⟩
  · have noGroup : decodeGroups t 0 0 = .ok [] := rfl
    simp [e, empty, noGroup]
  · simp only [e, Result.err.injEq]
    constructor
    · rintro ⟨rfl, rfl, rfl⟩
      exact ⟨rfl, .inl ⟨rfl, rfl, misaligned⟩⟩
    · rintro ⟨rfl, ⟨rfl, rfl, -⟩ | ⟨-, aligned, -⟩⟩
      · exact ⟨rfl, rfl, rfl⟩
      · exact absurd aligned misaligned
  · simp [e, aligned, hd]
  · simp only [e, Result.err.injEq]
    constructor
    · rintro ⟨rfl, rfl, rfl⟩
      exact ⟨rfl, .inr ⟨rfl, aligned, hg⟩⟩
    · rintro ⟨rfl, ⟨-, -, misaligned⟩ | ⟨rfl, -, hg'⟩⟩
      · exact absurd aligned misaligned
      · rw [hg] at hg'
        cases hg'
        exact ⟨rfl, rfl, rfl⟩

/-- Settles O19: the scan's own errors, then those of the cleaned sequence. -/
theorem decodeErrorPriority : Obligations.DecodeErrorPriority := by
  unfold Obligations.DecodeErrorPriority
  intro wsSet s kind char pos
  cases hs : scan wsSet s with
  | err kind' char' pos' => simp [decodeFn_of_scan_err hs]
  | ok t =>
    simp only [decodeFn_of_scan_ok hs, decodeCleaned_eq_err, decodeGroups_eq_badPadding,
      unpack8to5_isOk_eq_false, unpack8to5_isOk, reduceCtorEq, false_or, ScanResult.ok.injEq,
      exists_eq_left']

theorem validateCleaned_lenient (t : List ClassEntry) :
    validateCleaned false t = true ↔ t.length ≠ 0 ∧ t.length % 8 = 0 := by
  unfold validateCleaned
  split_ifs <;> simp_all

/-- VALIDATE of a cleaned sequence with BadPadding (R153, R154). -/
theorem validateCleaned_of_badPadding {t : List ClassEntry} {char : Byte} {pos : Nat}
    (h : decodeCleaned t = .err .badPadding char pos) :
    validateCleaned false t = true ∧ validateCleaned true t = false := by
  obtain ⟨-, ⟨kind, -, -⟩ | ⟨-, aligned, hg⟩⟩ := decodeCleaned_eq_err.mp h
  · cases kind
  · have inside := (decodeGroups_eq_badPadding.mp hg).1
    exact ⟨(validateCleaned_lenient t).mpr ⟨by omega, aligned⟩,
      validateCleaned_of_decodeCleaned_err (.inl rfl) h⟩

theorem validateCleaned_lenient_eq_strict {t : List ClassEntry}
    (h : ¬ ∃ char pos, decodeCleaned t = .err .badPadding char pos) :
    validateCleaned false t = validateCleaned true t := by
  rw [Bool.eq_iff_iff, validateCleaned_lenient, validateCleaned_strict_iff_decodeCleaned]
  refine and_congr_right fun nonempty => ?_
  rcases decodeCleaned_cases t with
    ⟨empty, -⟩ | ⟨misaligned, e⟩ | ⟨-, aligned, ⟨d, -, e⟩ | ⟨g, -, e⟩⟩
  · exact absurd empty nonempty
  · simp [e, misaligned]
  · simp [e, aligned]
  · exact absurd ⟨_, _, e⟩ h

/-- Settles O21: with the scan good, the two answers differ only in the pad counts. -/
theorem lenientValidateDiffersAtBadPadding : Obligations.LenientValidateDiffersAtBadPadding := by
  unfold Obligations.LenientValidateDiffersAtBadPadding
  intro wsSet s
  cases hs : scan wsSet s with
  | err kind char pos =>
    have other : kind ≠ .badPadding := by
      rintro rfl
      simpa using (scan_err hs).1
    simp [decodeFn_of_scan_err hs, validateFn_of_scan_err _ hs, other]
  | ok t =>
    simp only [decodeFn_of_scan_ok hs, validateFn_of_scan_ok _ hs, Result.bool.injEq]
    exact ⟨fun ⟨char, pos, h⟩ => validateCleaned_of_badPadding h,
      validateCleaned_lenient_eq_strict⟩

/-! ### Whitespace alone -/

theorem scanFrom_whitespace {wsSet s : List Byte} (h : ∀ c ∈ s, (classOf wsSet c).cls = .ws)
    (i : Nat) (padSeen : Bool) : scanFrom wsSet s i padSeen = .ok [] := by
  induction s generalizing i with
  | nil => rfl
  | cons c s ih =>
    obtain ⟨hc, rest⟩ := List.forall_mem_cons.mp h
    rw [scanFrom_ws _ _ _ hc, ih rest]

/-- Settles O18: the cleaned sequence is empty. -/
theorem emptyCleanedInput : Obligations.EmptyCleanedInput := by
  unfold Obligations.EmptyCleanedInput
  intro wsSet s strict h
  have cleaned : scan wsSet s = .ok [] := scanFrom_whitespace h 0 false
  rw [decodeFn_of_scan_ok cleaned, validateFn_of_scan_ok strict cleaned]
  exact ⟨rfl, rfl⟩

end Sys2Proof.Machine
end

section
/-!
PROOFS. What a step runs (10_state.md R20), reset (70_reset_and_hazards.md R200, R201), and register
reads (42_host_bus.md R160, R166).
-/

namespace Sys2Proof.Machine

open Sys2Proof

/-! ### One step, event by event -/

section

variable {s : State} {rest : List Event}

theorem step_none (h : s.inputs = []) : step s = engineStep s := by
  rw [step, h]

theorem step_host {w : InstrWord} (h : s.inputs = .host w :: rest) :
    step s = exec (decode w) { s with inputs := rest } := by
  rw [step, h]

theorem step_subWord {we : Bool} {addr : Word} (h : s.inputs = .subWord we addr :: rest) :
    step s = .next (State.respondError { s with inputs := rest }) := by
  rw [step, h]
  rfl

theorem step_engineTurn (h : s.inputs = .engineTurn :: rest) :
    step s = engineStep { s with inputs := rest } := by
  rw [step, h]

theorem step_reset (h : s.inputs = .reset :: rest) :
    step s = .next (State.resetEvent { s with inputs := rest }) := by
  rw [step, h]

end

theorem decodeTableWord_eq_some {nbits w : Nat} {i : Instr} :
    decodeTableWord nbits w = some i ↔
      ∃ iw, wordOfBytes (tableBytes nbits w) = .ok iw ∧ decode iw = i := by
  rw [← decodeBytes_eq_ok, decodeTableWord]
  cases decodeBytes (tableBytes nbits w) <;> simp

theorem step_withFetchWord (s : State) {nbits w : Nat} {i : Instr}
    (h : decodeTableWord nbits w = some i) : step (s.withFetchWord nbits w) = exec i s := by
  obtain ⟨iw, hiw, rfl⟩ := decodeTableWord_eq_some.mp h
  have fetched : s.withFetchWord nbits w = { s with inputs := .host iw :: s.inputs } := by
    rw [State.withFetchWord, hiw]
  rw [fetched]
  exact step_host rfl

/-- Settles O5: the step's equation for each event. -/
theorem stepRunsDecodedInstruction : Obligations.StepRunsDecodedInstruction := by
  unfold Obligations.StepRunsDecodedInstruction
  exact ⟨fun s w rest => step_host, fun s nbits w i => step_withFetchWord s,
    fun s => step_none, fun s rest => step_engineTurn⟩

theorem sameRegisters_refl (s : State) : SameRegisters s s :=
  ⟨rfl, rfl, rfl, rfl, rfl, rfl, rfl, rfl, rfl, rfl⟩

/-- Settles O25: the reset event's state is the reset state but for the model's own fields. -/
theorem resetEventFromAnyState : Obligations.ResetEventFromAnyState := by
  unfold Obligations.ResetEventFromAnyState
  exact fun s rest h => ⟨_, step_reset h, sameRegisters_refl State.reset, rfl, rfl,
    State.reset_ibuf_get?, State.reset_obuf_get?, rfl, rfl⟩

/-! ### STATUS (R26, R180) -/

/-- The fields of a word laid out as STATUS is. -/
theorem statusWord_layout (k : BitVec 3) (valid err done busy : Bool) :
    let w : Word := 0#25 ++ k ++ BitVec.ofBool valid ++ BitVec.ofBool err ++ BitVec.ofBool done ++
      BitVec.ofBool busy
    w.getLsbD 0 = busy ∧ w.getLsbD 1 = done ∧ w.getLsbD 2 = err ∧ w.getLsbD 3 = valid ∧
      w.extractLsb' 4 3 = k ∧ w.extractLsb' 7 25 = 0#25 := by
  revert k valid err done busy
  decide

/-- Settles O26: the layout of STATUS, and the code of each error kind. -/
theorem statusWordFields : Obligations.StatusWordFields := by
  unfold Obligations.StatusWordFields
  intro s
  obtain ⟨busy, done, err, valid, kind, high⟩ :=
    statusWord_layout (errKindCode s.errKind) s.valid s.err s.done s.busy
  have code {k : Option ErrKind} (h : s.errKind = k) :
      s.statusWord.extractLsb' 4 3 = errKindCode k := h ▸ kind
  exact ⟨busy, done, err, valid, kind, code, code, code, code, code, code, high, done.symm⟩

/-! ### Register transactions (R160, R166) -/

theorem regAt_unmapped {addr : Word}
    (h : addr ∉ [0x00#32, 0x04#32, 0x08#32, 0x0C#32, 0x10#32, 0x14#32]) : regAt addr = none := by
  simp only [List.mem_cons, List.not_mem_nil, or_false, not_or] at h
  simp only [regAt, h, if_false]

section

variable (s : State) {addr : Word} (wdata : Word)

theorem rd_unmapped (h : regAt addr = none) : Replies (.rd addr wdata) s 0#32 .error := by
  rw [Replies, exec, execRd, h]
  rfl

theorem wr_unmapped (h : regAt addr = none) : Replies (.wr addr wdata) s 0#32 .error := by
  rw [Replies, exec, execWr, h]
  rfl

end

/-- Settles O27: RD answers `State.readReg` at a register's offset and ERROR elsewhere. -/
theorem registerReadReturns : Obligations.RegisterReadReturns := by
  unfold Obligations.RegisterReadReturns
  exact fun s wdata => ⟨rfl, rfl, rfl, rfl, rfl, rfl,
    fun addr h => rd_unmapped s wdata (regAt_unmapped h)⟩

/-- Settles O28: the six registers stand at the multiples of 4 below 0x18. -/
theorem unmappedRegisterAccess : Obligations.UnmappedRegisterAccess := by
  unfold Obligations.UnmappedRegisterAccess
  refine ⟨fun s addr wdata h => ?_, fun s we addr rest h => step_subWord h⟩
  have unmapped : regAt addr = none := by
    refine regAt_unmapped fun mapped => ?_
    simp only [List.mem_cons, List.not_mem_nil, or_false] at mapped
    rcases mapped with rfl | rfl | rfl | rfl | rfl | rfl <;> simp at h
  exact ⟨rd_unmapped s wdata unmapped, wr_unmapped s wdata unmapped⟩

end Sys2Proof.Machine
end

section
/-!
PROOFS. Command requests (41_commands.md R130, 70_reset_and_hazards.md R205, R206): every way to
write one is CmdWrite, and what CmdWrite does to an idle and to a busy block.
-/

namespace Sys2Proof.Machine

open Sys2Proof

/-! ### Every request is CmdWrite -/

theorem exec_wr_cmd (w : Word) (s : State) :
    exec (.wr 0x00#32 w) s = .next (s.cmdWrite w).respondWrite := rfl

theorem exec_decodeCommand (w : Word) (s : State) :
    exec (decodeCommand w) s = .next (s.cmdWrite w).respondWrite := by
  rcases decodeCommand_cases w with ⟨op, e⟩ | ⟨op, e⟩ | ⟨op, e⟩ | ⟨op, e⟩ <;>
    rw [e, exec, ← commandWord_fields op, commandWord_reserved] <;> rfl

/-- Settles O6: both are CmdWrite of `w` (R71, R74). -/
theorem commandWordIsWriteToOffsetZero : Obligations.CommandWordIsWriteToOffsetZero := by
  unfold Obligations.CommandWordIsWriteToOffsetZero
  exact fun w s => (exec_decodeCommand w s).trans (exec_wr_cmd w s).symm

theorem exec_of_requestsCommand {i : Instr} (h : requestsCommand i = true) (s : State) :
    ∃ w, exec i s = .next (s.cmdWrite w).respondWrite := by
  cases i with
  | encode reserved => exact ⟨_, rfl⟩
  | decode reserved => exact ⟨_, rfl⟩
  | validate reserved => exact ⟨_, rfl⟩
  | badcmd reserved => exact ⟨_, rfl⟩
  | wr addr wdata =>
    obtain rfl : addr = 0#32 := eq_of_beq h
    exact ⟨wdata, rfl⟩
  | rd _ _ => cases h
  | rdbIbuf _ _ => cases h
  | wrbIbuf _ _ => cases h
  | rdbObuf _ _ => cases h
  | illegalWrbObuf _ _ => cases h
  | illegalPort3Rd _ _ => cases h
  | illegalPort3Wr _ _ => cases h

/-! ### Acceptance -/

theorem State.cmdWrite_of_busy {s : State} (w : Word) (busy : s.busy = true) :
    s.cmdWrite w = s := if_pos busy

/-- CmdWrite of a command whose length fits, to an idle block (R130). -/
theorem State.cmdWrite_good {w : Word} {s : State} {c : Command} (idle : s.busy = false)
    (hc : commandOf (opField w) = some c) (fits : s.inLen.toNat ≤ s.config.nIn) :
    s.cmdWrite w = (s.accept (opField w)).start c := by
  rcases s.cmdWrite_cases w with ⟨busy, -⟩ | ⟨-, noCommand | long, -⟩ | ⟨-, c', hc', -, h⟩
  · simp [idle] at busy
  · simp [hc] at noCommand
  · omega
  · obtain rfl : c = c' := Option.some.inj (hc.symm.trans hc')
    exact h

/-- A command word whose OP names a command goes in flight (R130). -/
theorem cmdWrite_commandWord {s : State} {op : BitVec 2} {c : Command} (reserved : BitVec 30)
    (idle : s.busy = false) (hc : commandOf op = some c) (fits : s.inLen.toNat ≤ s.config.nIn) :
    s.cmdWrite (commandWord reserved op) = (s.accept op).start c := by
  rw [State.cmdWrite_good idle (by rwa [opField_commandWord]) fits, opField_commandWord]

theorem State.started_statusWord (s : State) (op : BitVec 2) (c : Command) :
    ((s.accept op).start c).statusWord = 0x00000001#32 := by
  have fields : ((s.accept op).start c).statusWord =
      0#25 ++ 0#3 ++ BitVec.ofBool false ++ BitVec.ofBool false ++ BitVec.ofBool false ++
        BitVec.ofBool true := rfl
  rw [fields]
  decide

/-- Settles O39: each word is CmdWrite of a word whose OP names its command. -/
theorem commandAccepted : Obligations.CommandAccepted := by
  unfold Obligations.CommandAccepted
  intro s reserved idle fits
  have accepted {op : BitVec 2} {c : Command} (hc : commandOf op = some c) :=
    congrArg State.respondWrite (cmdWrite_commandWord reserved idle hc fits)
  exact ⟨⟨_, congrArg _ (accepted rfl)⟩, ⟨_, congrArg _ (accepted rfl)⟩,
    ⟨_, congrArg _ (accepted rfl)⟩, fun c op => s.started_statusWord op c⟩

/-! ### While busy -/

/-- Settles O41: CmdWrite drops the word. -/
theorem busyCommandDropped : Obligations.BusyCommandDropped := by
  unfold Obligations.BusyCommandDropped
  intro i s busy request
  obtain ⟨w, isWrite⟩ := exec_of_requestsCommand request s
  rw [State.cmdWrite_of_busy w busy] at isWrite
  exact ⟨_, isWrite⟩

/-- Settles O42: both stores are dropped. -/
theorem busyInputWritesDropped : Obligations.BusyInputWritesDropped := by
  unfold Obligations.BusyInputWritesDropped
  intro s addr wdata busy
  have inLen := wr_inLen_acknowledges s wdata
  have ibuf := wrbIbuf_acknowledges s (addr := addr) wdata
  rw [State.writeInLen_of_busy wdata busy] at inLen
  simp only [State.writeIbuf_of_busy _ _ busy] at ibuf
  exact ⟨inLen, ibuf⟩

end Sys2Proof.Machine
end

section
/-!
PROOFS. Frames: what each kind of transaction and each step leaves as it was.
-/

namespace Sys2Proof.Machine

open Sys2Proof

/-! ### Transactions -/

theorem State.respond_sameRegisters (s : State) (rdata : Word) (resp : Resp) :
    SameRegisters s (s.respond rdata resp) := sameRegisters_refl s

theorem not_requestsCommand_of_writesNothing {i : Instr} (h : writesNothing i = true) :
    requestsCommand i = false := by
  revert h
  cases i <;> simp [writesNothing, requestsCommand]

theorem exec_of_writesNothing {i : Instr} {s t : State} (h : writesNothing i = true)
    (ran : exec i s = .next t) : ∃ rdata resp, t = s.respond rdata resp := by
  obtain ⟨u, rdata, resp, rfl, rfl | ⟨request, -⟩ | ⟨_, _, rfl, -⟩ | ⟨_, _, rfl, -, -⟩⟩ :=
    exec_cases ran
  · exact ⟨rdata, resp, rfl⟩
  · simp [not_requestsCommand_of_writesNothing h] at request
  · cases h
  · cases h

/-- Settles O36: such an instruction only responds. -/
theorem readsAndIllegalsFrame : Obligations.ReadsAndIllegalsFrame := by
  unfold Obligations.ReadsAndIllegalsFrame
  intro i s t quiet ran
  obtain ⟨rdata, resp, rfl⟩ := exec_of_writesNothing quiet ran
  exact ⟨s.respond_sameRegisters rdata resp, fun _ => rfl, fun _ => rfl, rfl, rfl⟩

/-- A register's byte offset (R24). -/
def regOffset : Reg → Word
  | .cmd => 0x00#32
  | .status => 0x04#32
  | .inLen => 0x08#32
  | .outLen => 0x0C#32
  | .errChar => 0x10#32
  | .errPos => 0x14#32

theorem regOffset_of_regAt {addr : Word} {r : Reg} (h : regAt addr = some r) :
    addr = regOffset r := by
  unfold regAt at h
  split_ifs at h <;> cases h <;> assumption

/-- A register write that is no command request stores IN_LEN at 0x08 and nothing elsewhere
(R162, R163, R166). -/
theorem exec_wr_cases {addr wdata : Word} {s t : State} (notCmd : addr ≠ 0x00#32)
    (ran : exec (.wr addr wdata) s = .next t) :
    ∃ u rdata resp, t = State.respond rdata resp u ∧
      (u = s ∨ addr = 0x08#32 ∧ u = s.writeInLen wdata) := by
  simp only [exec, execWr] at ran
  split at ran
  case h_2 hr => exact absurd (regOffset_of_regAt hr) notCmd
  case h_3 hr => cases ran; exact ⟨_, _, _, rfl, .inr ⟨regOffset_of_regAt hr, rfl⟩⟩
  all_goals cases ran; exact ⟨_, _, _, rfl, .inl rfl⟩

/-- Settles O37: WR stores IN_LEN at most, WRB_IBUF one byte at most. -/
theorem dataWritesFrame : Obligations.DataWritesFrame := by
  unfold Obligations.DataWritesFrame
  intro s t addr wdata
  constructor
  · intro notCmd ran
    obtain ⟨u, rdata, resp, rfl, rfl | ⟨rfl, rfl⟩⟩ := exec_wr_cases notCmd ran
    · exact ⟨u.respond_sameRegisters rdata resp, fun _ => rfl, fun _ => rfl, fun _ => rfl, rfl, rfl⟩
    · simp [SameRegisters, SameIbuf, SameObuf, SameSurroundings]
  · intro ran
    obtain ⟨u, rdata, resp, rfl, rfl | ⟨request, -⟩ | ⟨_, _, e, -⟩ | ⟨_, _, e, -, rfl⟩⟩ :=
      exec_cases ran
    · exact ⟨u.respond_sameRegisters rdata resp, fun _ _ => rfl, fun _ => rfl, rfl, rfl⟩
    · cases request
    · cases e
    · cases e
      refine ⟨by simp [SameRegisters], fun a ha => ?_, by simp [SameObuf],
        by simp [SameSurroundings]⟩
      rw [State.respond_ibuf, State.writeIbuf_ibuf]
      split
      · rfl
      · exact Memory.get?_set_other s.ibuf _ ha

/-- Settles O38: CmdWrite drops, ends as BadCommand with no command in flight, or starts one. -/
theorem commandRequestFrame : Obligations.CommandRequestFrame := by
  unfold Obligations.CommandRequestFrame
  intro i s t request ran
  obtain ⟨w, isWrite⟩ := exec_of_requestsCommand request s
  obtain rfl : (s.cmdWrite w).respondWrite = t := by rw [isWrite] at ran; cases ran; rfl
  obtain ⟨inLen, ibuf, config, -, inputs, -⟩ := s.cmdWrite_frame w
  refine ⟨inLen, fun a => congrArg (Memory.get? · a) ibuf, ⟨config, inputs⟩, fun busy => ?_,
    fun started => ?_⟩
  · rw [State.cmdWrite_of_busy w busy]
    exact ⟨s.respond_sameRegisters _ _, fun _ => rfl⟩
  · rcases s.cmdWrite_cases w with ⟨-, h⟩ | ⟨-, -, h⟩ | ⟨-, c, -, -, h⟩
    · rw [h]
      exact ⟨rfl, rfl, rfl, fun _ => rfl⟩
    · rw [h] at started
      cases started
    · rw [h]
      exact ⟨rfl, rfl, rfl, fun _ => rfl⟩

/-! ### The engine's turn -/

/-- Settles O49: the engine completes the command in flight, or passes. -/
theorem engineTurnFrame : Obligations.EngineTurnFrame := by
  unfold Obligations.EngineTurnFrame
  intro s t turn
  rcases engineStep_cases turn with ⟨idle, rfl⟩ | ⟨f, inFlight, -, -, rfl⟩
  · exact ⟨rfl, rfl, fun _ => rfl, ⟨rfl, rfl⟩, rfl, State.busy_eq_false.mpr idle, fun _ => rfl⟩
  · have busy : s.busy = true := State.busy_eq_true.mpr ⟨f, inFlight⟩
    simp [SameIbuf, SameSurroundings, State.busy_eq_false, busy]

section

variable {s t : State} (turn : engineStep s = .next t)

include turn

theorem engineStep_surroundings : SameSurroundings s t := by
  obtain ⟨-, -, -, same, -⟩ := engineTurnFrame s t turn
  exact same

theorem engineStep_busy : t.busy = false := by
  obtain ⟨-, -, -, -, -, idle, -⟩ := engineTurnFrame s t turn
  exact idle

theorem engineStep_of_idle (idle : s.busy = false) : t = s := by
  obtain ⟨-, -, -, -, -, -, passes⟩ := engineTurnFrame s t turn
  exact passes idle

end

/-! ### Draws and parameters -/

/-- A transaction uses one draw and leaves what is around the block. -/
theorem exec_draws_surroundings {i : Instr} {s t : State} (h : exec i s = .next t) :
    t.draws = s.draws + 1 ∧ SameSurroundings s t := by
  obtain ⟨u, rdata, resp, rfl, rfl | ⟨-, w, rfl⟩ | ⟨_, wdata, -, rfl⟩ | ⟨_, wdata, -, -, rfl⟩⟩ :=
    exec_cases h
  · exact ⟨rfl, rfl, rfl⟩
  · obtain ⟨-, -, config, -, inputs, draws⟩ := s.cmdWrite_frame w
    simp [SameSurroundings, config, inputs, draws]
  · simp [SameSurroundings]
  · simp [SameSurroundings]

theorem engineStep_draws {s t : State} (h : engineStep s = .next t) :
    s.draws ≤ t.draws ∧ (s.busy = true → t.draws = s.draws + 1) := by
  rcases engineStep_cases h with ⟨idle, rfl⟩ | ⟨f, -, -, -, rfl⟩
  · simp [State.busy_eq_false.mpr idle]
  · simp

/-- Settles O29: a transaction and a completion each use one draw. -/
theorem eachTransactionTakesAFreshDraw : Obligations.EachTransactionTakesAFreshDraw := by
  unfold Obligations.EachTransactionTakesAFreshDraw
  refine ⟨fun i s t h => (exec_draws_surroundings h).1, fun s t h => ?_⟩
  rcases step_cases h with
    ⟨hi, turn⟩ | ⟨w, rest, hi, ran⟩ | ⟨we, addr, rest, hi, rfl⟩ | ⟨rest, hi, turn⟩ | ⟨rest, hi, rfl⟩
  · obtain ⟨mono, fresh⟩ := engineStep_draws turn
    exact ⟨mono, by simp [hi], fun _ => fresh⟩
  · have draws : t.draws = s.draws + 1 := (exec_draws_surroundings ran).1
    exact ⟨by omega, fun _ _ _ => draws, by simp [hi]⟩
  · simp [hi]
  · obtain ⟨mono, fresh⟩ := engineStep_draws turn
    exact ⟨mono, by simp [hi], fun _ => fresh⟩
  · simp [hi]

/-- Settles O55: no operation writes the parameters. -/
theorem parametersNeverChange : Obligations.ParametersNeverChange := by
  unfold Obligations.ParametersNeverChange
  intro s t h
  rcases step_cases h with
    ⟨-, turn⟩ | ⟨w, rest, -, ran⟩ | ⟨we, addr, rest, -, rfl⟩ | ⟨rest, -, turn⟩ | ⟨rest, -, rfl⟩
  · exact (engineStep_surroundings turn).1
  · exact (exec_draws_surroundings ran).2.1
  · rfl
  · exact (engineStep_surroundings turn).1
  · rfl

/-! ### BUSY, DONE and the results -/

/-- An instruction that requests no command keeps the command in flight, or none, and everything
a completed command reports (R27, R61). -/
theorem exec_of_not_requestsCommand {i : Instr} {s t : State} (h : requestsCommand i = false)
    (ran : exec i s = .next t) :
    SameRegisters { s with inLen := t.inLen } t ∧ t.obuf = s.obuf := by
  obtain ⟨u, rdata, resp, rfl, rfl | ⟨request, -⟩ | ⟨_, _, -, rfl⟩ | ⟨_, _, -, -, rfl⟩⟩ :=
    exec_cases ran
  · exact ⟨u.respond_sameRegisters rdata resp, rfl⟩
  · simp [h] at request
  · simp [SameRegisters]
  · simp [SameRegisters]

theorem exec_keeps_busy {i : Instr} {s t : State} (ran : exec i s = .next t)
    (busy : s.busy = true) : t.busy = true := by
  cases request : requestsCommand i with
  | true =>
    obtain ⟨-, -, -, dropped, -⟩ := commandRequestFrame i s t request ran
    obtain ⟨⟨-, -, -, -, -, -, -, -, -, engine⟩, -⟩ := dropped busy
    exact (congrArg Option.isSome engine).trans busy
  | false =>
    obtain ⟨⟨-, -, -, -, -, -, -, -, -, engine⟩, -⟩ := exec_of_not_requestsCommand request ran
    exact (congrArg Option.isSome engine).trans busy

theorem requestsCommand_of_exec_sets_busy {i : Instr} {s t : State} (ran : exec i s = .next t)
    (idle : s.busy = false) (busy : t.busy = true) : requestsCommand i = true := by
  by_contra request
  obtain ⟨⟨-, -, -, -, -, -, -, -, -, engine⟩, -⟩ :=
    exec_of_not_requestsCommand (Bool.eq_false_iff.mpr request) ran
  have same : t.busy = s.busy := congrArg Option.isSome engine
  simp [same, idle] at busy

/-- Settles O56: a request is the only step that sets BUSY, and no transaction clears it. -/
theorem busyChangesOnlyAsStated : Obligations.BusyChangesOnlyAsStated := by
  unfold Obligations.BusyChangesOnlyAsStated
  intro s t h
  rcases step_cases h with
    ⟨hi, turn⟩ | ⟨w, rest, hi, ran⟩ | ⟨we, addr, rest, hi, rfl⟩ | ⟨rest, hi, turn⟩ | ⟨rest, hi, rfl⟩
  · exact ⟨fun _ busy => by simp [engineStep_busy turn] at busy, fun _ _ => .inl hi⟩
  · refine ⟨fun idle busy => ⟨w, rest, hi, requestsCommand_of_exec_sets_busy ran idle busy⟩,
      fun busy idle => ?_⟩
    simp [exec_keeps_busy ran busy] at idle
  · exact ⟨fun idle busy => Bool.noConfusion (idle.symm.trans busy),
      fun busy idle => Bool.noConfusion (busy.symm.trans idle)⟩
  · exact ⟨fun _ busy => by simp [engineStep_busy turn] at busy,
      fun _ _ => .inr ⟨rest, .inl hi⟩⟩
  · exact ⟨fun _ busy => Bool.noConfusion busy, fun _ _ => .inr ⟨rest, .inr hi⟩⟩

theorem engineStep_keeps_done {s t : State} (turn : engineStep s = .next t)
    (done : s.done = true) : t.done = true := by
  rcases engineStep_cases turn with ⟨-, rfl⟩ | ⟨f, -, -, -, rfl⟩
  · exact done
  · exact State.complete_done s _

/-- Settles O57: a completion sets DONE, and no other step but a request or reset writes it. -/
theorem doneStaysUntilCommandOrReset : Obligations.DoneStaysUntilCommandOrReset := by
  unfold Obligations.DoneStaysUntilCommandOrReset
  intro s t _ h done cleared
  rcases step_cases h with
    ⟨-, turn⟩ | ⟨w, rest, hi, ran⟩ | ⟨we, addr, rest, -, rfl⟩ | ⟨rest, -, turn⟩ | ⟨rest, hi, rfl⟩
  · simp [engineStep_keeps_done turn done] at cleared
  · refine .inl ⟨w, rest, hi, ?_⟩
    by_contra request
    obtain ⟨⟨-, keeps, -⟩, -⟩ :=
      exec_of_not_requestsCommand (Bool.eq_false_iff.mpr request) ran
    exact Bool.noConfusion (cleared.symm.trans (keeps.trans done))
  · exact Bool.noConfusion (cleared.symm.trans done)
  · simp [engineStep_keeps_done turn done] at cleared
  · exact .inr ⟨rest, hi⟩

/-- Settles O58: with no command in flight the engine passes, and such a transaction writes IN_LEN
and IBUF at most. -/
theorem resultsStayAfterCompletion : Obligations.ResultsStayAfterCompletion := by
  unfold Obligations.ResultsStayAfterCompletion
  intro s t idle done h noRequest noReset
  rcases step_cases h with
    ⟨-, turn⟩ | ⟨w, rest, hi, ran⟩ | ⟨we, addr, rest, -, rfl⟩ | ⟨rest, -, turn⟩ | ⟨rest, hi, -⟩
  · obtain rfl : t = s := engineStep_of_idle turn idle
    exact ⟨done, rfl, rfl, rfl, rfl, rfl, rfl, rfl, fun _ => rfl⟩
  · obtain ⟨⟨lastOp, done', err, valid, errKind, -, outLen, errChar, errPos, -⟩, obuf⟩ :=
      exec_of_not_requestsCommand (noRequest w rest hi) ran
    exact ⟨done'.trans done, err, valid, errKind, outLen, errChar, errPos, lastOp,
      fun a => congrArg (Memory.get? · a) obuf⟩
  · exact ⟨done, rfl, rfl, rfl, rfl, rfl, rfl, rfl, fun _ => rfl⟩
  · obtain rfl : t = { s with inputs := rest } := engineStep_of_idle turn idle
    exact ⟨done, rfl, rfl, rfl, rfl, rfl, rfl, rfl, fun _ => rfl⟩
  · exact absurd hi (noReset rest)

end Sys2Proof.Machine
end

section
/-!
PROOFS. The engine completes every command whose input fits IBUF, with the result of its function
(41_commands.md R130, R132, R140 to R157).
-/

namespace Sys2Proof.Machine

open Sys2Proof

/-! ### The size of a result -/

theorem scan_ok_length_le {wsSet s : List Byte} {t : List ClassEntry} (h : scan wsSet s = .ok t) :
    t.length ≤ s.length := by
  rw [scanFrom_ok_eq_filter h]
  exact (List.length_filter_le _ _).trans_eq (List.length_map _)

/-- Each group of 8 gives at most 5 bytes (R106, R147). -/
theorem decodeCleaned_out_length_le {t : List ClassEntry} {d : List Byte}
    (h : decodeCleaned t = .out d) : d.length ≤ 5 * (t.length / 8) := by
  obtain ⟨-, good, rfl⟩ := decodeCleaned_eq_out h
  rw [List.length_flatMap]
  refine (List.sum_le_card_nsmul _ 5 ?_).trans_eq (by simp [Nat.mul_comm])
  simp only [List.mem_map, List.mem_range]
  rintro _ ⟨g, hg, rfl⟩
  exact padBytes_le (unpack8to5_bytes_length (good g hg))

/-- An output always fits OBUF (R8, R140). -/
theorem runCommand_outCount_le {c : Config} (op : Command) {input : List Byte}
    (fits : input.length ≤ c.nIn) : (runCommand c op input).outCount ≤ c.nOut := by
  rw [nOut_eq]
  cases op with
  | encode =>
    have length := encodeBytesOut_length input
    simp only [runCommand, encodeFn, Result.outCount]
    omega
  | decode =>
    rw [runCommand]
    cases hd : decodeFn c.wsSet input with
    | out d =>
      obtain ⟨t, hs, ht⟩ := decodeFn_eq_out.mp hd
      have cleaned := scan_ok_length_le hs
      have length := decodeCleaned_out_length_le ht
      simp only [Result.outCount]
      omega
    | err kind char pos => exact Nat.zero_le _
    | bool b => exact Nat.zero_le _
  | validate =>
    obtain ⟨b, answer⟩ := validateFn_eq_bool c.wsSet input c.valStrictPad
    rw [runCommand, answer]
    exact Nat.zero_le _

/-- Only DECODE gives an error; its position is an index of the input, or at most its length. -/
theorem runCommand_eq_err {c : Config} {op : Command} {input : List Byte} {kind : ErrKind}
    {char : Byte} {pos : Nat} (h : runCommand c op input = .err kind char pos) :
    op = .decode ∧ decodeFn c.wsSet input = .err kind char pos ∧ pos ≤ input.length := by
  cases op with
  | encode => cases h
  | decode =>
    refine ⟨rfl, h, ?_⟩
    rcases (decodeErrorPriority c.wsSet input kind char pos).mp h with
      hs | ⟨t, hs, -, ⟨-, rfl, -⟩ | ⟨-, -, inside, -⟩⟩
    · exact (scan_err hs).2.le
    · exact scan_ok_length_le hs
    · have := scan_ok_length_le hs
      omega
  | validate =>
    obtain ⟨b, answer⟩ := validateFn_eq_bool c.wsSet input c.valStrictPad
    rw [runCommand, answer] at h
    cases h

/-! ### Completion reports the result -/

theorem outLenWord_of_lt (draw : Nat) {n : Nat} (h : n < 2 ^ 32) :
    outLenWord draw n = BitVec.ofNat 32 n := if_pos h

/-- The state after COMPLETE reports the result, whatever the draw counter (R132). -/
theorem State.complete_reports (s : State) {r : Result} (draws : Nat)
    (position : ∀ kind char pos, r = .err kind char pos → pos < 2 ^ 32) :
    State.Reports { s.complete r with draws := draws } r := by
  cases r with
  | out d =>
    refine ⟨rfl, rfl, rfl, rfl, rfl, fun length => ?_, rfl, rfl, fun j hj => ?_⟩
    · simp only [State.complete_out_outLen, outLenWord_of_lt _ length, BitVec.toNat_ofNat]
      exact Nat.mod_eq_of_lt length
    · simp only [State.complete_out_obuf, Memory.get?_setFrom]
      simp [hj]
  | err kind char pos =>
    refine ⟨rfl, rfl, rfl, rfl, rfl, rfl, rfl, ?_⟩
    exact Nat.mod_eq_of_lt (position kind char pos rfl)
  | bool b => exact ⟨rfl, rfl, rfl, rfl, rfl, rfl, rfl, rfl⟩

/-! ### The engine's turn with a command in flight -/

/-- Where the length in flight is good, the engine completes the command (R130, R188). -/
theorem engineStep_completes {s : State} {f : InFlight} (inFlight : s.engine = some f)
    (fits : f.len.toNat ≤ s.config.nIn) :
    engineStep s =
      .next { s.complete (runCommand s.config f.op (s.inputBytes f.len.toNat)) with
              draws := s.draws + 1 } :=
  engineStep_eq inFlight fits
    (runCommand_outCount_le f.op (by rwa [State.inputBytes_length]))

theorem complete_runCommand_reports (s : State) (c : Config) (op : Command) (draws : Nat)
    {input : List Byte} (length : input.length < 2 ^ 32) :
    State.Reports { s.complete (runCommand c op input) with draws := draws }
      (runCommand c op input) :=
  s.complete_reports draws fun _ _ _ h => by
    obtain ⟨-, -, bound⟩ := runCommand_eq_err h
    exact bound.trans_lt length

/-- With the input held, the result is that of the command's function on it. -/
theorem engineStep_of_holdsInput {s : State} {f : InFlight} {b : List Byte}
    (inFlight : s.engine = some f) (length : f.len = s.inLen) (holds : s.HoldsInput b)
    (fits : b.length ≤ s.config.nIn) :
    engineStep s = .next { s.complete (runCommand s.config f.op b) with draws := s.draws + 1 } := by
  obtain ⟨inLen, bytes⟩ := holds
  have count : f.len.toNat = b.length := by rw [length, inLen]
  rw [engineStep_completes inFlight (count ▸ fits), count, State.inputBytes_eq bytes]

/-- Settles O44: the byte sequence is the one that the engine reads. -/
theorem unwrittenInputReadsAsSomeByte : Obligations.UnwrittenInputReadsAsSomeByte := by
  unfold Obligations.UnwrittenInputReadsAsSomeByte
  intro s f inFlight fits
  have length := s.inputBytes_length f.len.toNat
  refine ⟨s.inputBytes f.len.toNat, _, length, fun j hj c written => ?_,
    engineStep_completes inFlight fits,
    complete_runCommand_reports s s.config f.op _ (length.trans_lt f.len.isLt)⟩
  rw [length] at hj
  simp [State.inputBytes, hj, State.readIbuf_of_written written]

/-- From an idle state that holds an input, CmdWrite of a command's OP and the engine's turn after
it leave the command's result. -/
theorem cmdWrite_then_engineStep {s : State} {i : Instr} {op : BitVec 2} {c : Command}
    {b : List Byte} (reserved : BitVec 30)
    (isWrite : exec i s = .next (s.cmdWrite (commandWord reserved op)).respondWrite)
    (hc : commandOf op = some c) (idle : s.busy = false) (holds : s.HoldsInput b)
    (fits : b.length ≤ s.config.nIn) :
    ∃ t u, exec i s = .next t ∧ t.busy = true ∧ engineStep t = .next u ∧
      u.Reports (runCommand s.config c b) ∧ u.lastOp = op ∧ u.inLen = s.inLen ∧ SameIbuf s u ∧
      SameSurroundings s u := by
  rw [cmdWrite_commandWord reserved idle hc (holds.1 ▸ fits)] at isWrite
  have turn := engineStep_of_holdsInput (s := ((s.accept op).start c).respondWrite)
    (f := ⟨c, s.inLen⟩) rfl rfl holds fits
  refine ⟨_, _, isWrite, rfl, turn, ?_, ?_⟩
  · exact complete_runCommand_reports _ s.config c _ (holds.1 ▸ s.inLen.isLt)
  · simp [SameIbuf, SameSurroundings]

/-- Settles O43: each of the three words is CmdWrite of its OP. -/
theorem commandComputesItsFunction : Obligations.CommandComputesItsFunction := by
  unfold Obligations.CommandComputesItsFunction
  exact fun s reserved b idle holds fits =>
    ⟨cmdWrite_then_engineStep reserved rfl (c := .encode) rfl idle holds fits,
      cmdWrite_then_engineStep reserved rfl (c := .decode) rfl idle holds fits,
      cmdWrite_then_engineStep reserved rfl (c := .validate) rfl idle holds fits⟩

/-! ### Independence (R157) -/

/-- What COMPLETE writes depends on the result alone, but for OUT_LEN of one too long for it. -/
theorem State.complete_congr (s s' : State) (r : Result) :
    (s.complete r).err = (s'.complete r).err ∧ (s.complete r).valid = (s'.complete r).valid ∧
    (s.complete r).errKind = (s'.complete r).errKind ∧
    (s.complete r).errChar = (s'.complete r).errChar ∧
    (s.complete r).errPos = (s'.complete r).errPos ∧ (s.complete r).obuf = (s'.complete r).obuf ∧
    (r.outCount < 2 ^ 32 → (s.complete r).outLen = (s'.complete r).outLen) := by
  cases r with
  | out d =>
    refine ⟨rfl, rfl, rfl, rfl, rfl, rfl, fun (length : d.length < 2 ^ 32) => ?_⟩
    rw [State.complete_out_outLen, State.complete_out_outLen, outLenWord_of_lt _ length,
      outLenWord_of_lt _ length]
  | err kind char pos => exact ⟨rfl, rfl, rfl, rfl, rfl, rfl, fun _ => rfl⟩
  | bool b => exact ⟨rfl, rfl, rfl, rfl, rfl, rfl, fun _ => rfl⟩

theorem State.inputBytes_congr {s s' : State} {n : Nat}
    (h : ∀ j < n, (s.ibuf.get? j).isSome ∧ s.ibuf.get? j = s'.ibuf.get? j) :
    s.inputBytes n = s'.inputBytes n := by
  refine List.map_congr_left fun j hj => ?_
  obtain ⟨written, same⟩ := h j (List.mem_range.mp hj)
  obtain ⟨b, hb⟩ := Option.isSome_iff_exists.mp written
  rw [State.readIbuf_of_written hb, State.readIbuf_of_written (same ▸ hb)]

/-- Settles O50: both engines read the same bytes, so both complete with the same result. -/
theorem commandsAreIndependent : Obligations.CommandsAreIndependent := by
  unfold Obligations.CommandsAreIndependent
  intro s s' t t' f inFlight inFlight' config written turn turn'
  rcases engineStep_cases turn with ⟨idle, -⟩ | ⟨f1, e1, -, -, rfl⟩
  · simp [inFlight] at idle
  rcases engineStep_cases turn' with ⟨idle, -⟩ | ⟨f2, e2, -, -, rfl⟩
  · simp [inFlight'] at idle
  obtain rfl : f = f1 := Option.some.inj (inFlight.symm.trans e1)
  obtain rfl : f = f2 := Option.some.inj (inFlight'.symm.trans e2)
  rw [← config, ← State.inputBytes_congr written]
  obtain ⟨err, valid, errKind, errChar, errPos, obuf, outLen⟩ :=
    s.complete_congr s' (runCommand s.config f.op (s.inputBytes f.len.toNat))
  exact ⟨err, valid, errKind, errChar, errPos, fun a => congrArg (Memory.get? · a) obuf.symm,
    outLen⟩

/-! ### The round trip through the hardware -/

theorem outcome_next_inj {o : Host.Outcome State Fault Refusal} {t t' : State}
    (h : o = .next t) (h' : o = .next t') : t = t' :=
  Host.Outcome.next.inj (h.symm.trans h')

/-- Settles O47: the bytes copied are ENCODE_FN's output, and DECODE_FN inverts it. -/
theorem hardwareRoundTrip : Obligations.HardwareRoundTrip := by
  unfold Obligations.HardwareRoundTrip
  intro s s' t u t' u' r r' b e idle holds fits ran turn length copied idle' holds' fits' ran' turn'
  obtain ⟨⟨t1, u1, ran1, -, turn1, encoded, -⟩, -⟩ :=
    commandComputesItsFunction s r b idle holds fits
  obtain rfl := outcome_next_inj ran ran1
  obtain rfl := outcome_next_inj turn turn1
  obtain ⟨-, -, -, -, -, -, -, -, obuf⟩ : u.ReportsOutput (encodeBytesOut b) := encoded
  have same : e = encodeBytesOut b := by
    have lengths : e.length = (encodeBytesOut b).length := by
      rw [length, encodeBytesOut_length, Nat.mul_comm]
    refine List.ext_getElem? fun j => ?_
    by_cases hj : j < e.length
    · rw [← copied j hj, obuf j (lengths ▸ hj)]
    · rw [List.getElem?_eq_none (by omega), List.getElem?_eq_none (by omega)]
  obtain ⟨-, ⟨t2, u2, ran2, -, turn2, decoded, -⟩, -⟩ :=
    commandComputesItsFunction s' r' e idle' holds' fits'
  obtain rfl := outcome_next_inj ran' ran2
  obtain rfl := outcome_next_inj turn' turn2
  rw [same, decodeFn_encodeBytesOut] at decoded
  exact decoded

end Sys2Proof.Machine
end

section
/-!
PROOFS. The invariant (Safety.lean): it holds at reset, and each operation that a step is made of
keeps it (10_state.md R26 to R38, 20_memory.md R58).
-/

namespace Sys2Proof.Machine

open Sys2Proof

/-! ### Reset -/

/-- The registers and buffers of the reset state meet the invariant under any good parameters. -/
theorem State.resetEvent_inv {s : State} (config : s.ConfigOk) : s.resetEvent.Inv :=
  ⟨config, ⟨Memory.wf_nil, Memory.wf_nil, by simp, by simp, by simp⟩, by simp [State.EngineOk],
    by simp [State.StatusOk], by simp [State.ResultOk]⟩

theorem State.reset_configOk : State.reset.ConfigOk := by
  have inRange := Config.openNInPred.isLt
  refine ⟨Nat.le_add_left 1 _, ?_, ?_⟩
  · change Config.openNInPred.val + 1 < 2 ^ 32
    omega
  · decide

/-- Settles O51: N_IN is in range whatever its value, and every WS_SET byte classifies as WS. -/
theorem invariantHoldsAtReset : Obligations.InvariantHoldsAtReset := by
  unfold Obligations.InvariantHoldsAtReset
  exact State.resetEvent_inv State.reset_configOk

/-! ### Stores -/

theorem State.writeInLen_inv {s : State} (inv : s.Inv) (wdata : Word) :
    (s.writeInLen wdata).Inv := by
  cases busy : s.busy with
  | true => rwa [State.writeInLen_of_busy wdata busy]
  | false =>
    obtain ⟨config, buffers, -, status, result⟩ := inv
    have idle := State.busy_eq_false.mp busy
    rw [State.writeInLen_of_idle wdata busy]
    exact ⟨config, buffers, by simp [State.EngineOk, idle], status, result⟩

theorem State.writeIbuf_inv {s : State} (inv : s.Inv) {i : Nat} (inside : i < s.config.nIn)
    (b : Byte) : (s.writeIbuf i b).Inv := by
  cases busy : s.busy with
  | true => rwa [State.writeIbuf_of_busy i b busy]
  | false =>
    obtain ⟨config, ⟨ibufWf, obufWf, ibufIn, obufIn, written⟩, engine, status, result⟩ := inv
    rw [State.writeIbuf_of_idle i b busy]
    refine ⟨config, ⟨Memory.wf_set ibufWf i b, obufWf, fun c hc => ?_, obufIn, written⟩, engine,
      status, result⟩
    rcases Memory.mem_set hc with rfl | old
    · exact inside
    · exact ibufIn c old

/-! ### Completion -/

/-- A result that a command whose OP is LAST_OP can end with. -/
def State.CanEndWith (s : State) : Result → Prop
  | .out d => d.length ≤ s.config.nOut
  | .err kind char pos =>
    kind = .badCommand ∧ char = 0#8 ∧ pos = 0 ∨
      kind ≠ .badCommand ∧ s.lastOp = 0b10#2 ∧
        (kind ≠ .paddingInMiddle → kind ≠ .invalidCharacter → char = 0#8)
  | .bool _ => s.lastOp = 0b11#2

theorem outLenWord_toNat_le (draw n : Nat) : (outLenWord draw n).toNat ≤ n := by
  unfold outLenWord
  split
  next => exact (BitVec.toNat_ofNat n 32).trans_le (Nat.mod_le _ _)
  next large => exact (BitVec.isLt _).le.trans (not_lt.mp large)

/-- The result's bytes stand in OBUF in canonical form, inside the port, and all written. -/
theorem State.complete_buffersOk {s : State} {r : Result} (buffers : s.BuffersOk)
    (canEnd : s.CanEndWith r) : (s.complete r).BuffersOk := by
  obtain ⟨ibufWf, -, ibufIn, -, -⟩ := buffers
  cases r with
  | out d =>
    refine ⟨ibufWf, Memory.wf_setFrom Memory.wf_nil 0 d, ibufIn, fun c hc => ?_, fun i hi => ?_⟩
    · rcases Memory.mem_setFrom hc with old | ⟨-, inside⟩
      · cases old
      · exact (inside.trans_eq (Nat.zero_add _)).trans_le canEnd
    · have inside : i < d.length := hi.trans_le (outLenWord_toNat_le s.draws d.length)
      simp [Memory.get?_setFrom, inside]
  | err kind char pos => exact ⟨ibufWf, Memory.wf_nil, ibufIn, by simp, by simp⟩
  | bool b => exact ⟨ibufWf, Memory.wf_nil, ibufIn, by simp, by simp⟩

theorem State.complete_statusOk {s : State} {r : Result} (canEnd : s.CanEndWith r) :
    (s.complete r).StatusOk := by
  cases r with
  | out d => simp [State.StatusOk, State.busy]
  | err kind char pos =>
    have codec : kind = .badCommand ∨ s.lastOp = 0b10#2 :=
      canEnd.imp (fun h => h.1) fun h => h.2.1
    simpa [State.StatusOk, State.busy] using codec
  | bool b =>
    have validate : s.lastOp = 0b11#2 := canEnd
    simp [State.StatusOk, State.busy, validate]

theorem State.complete_resultOk {s : State} {r : Result} (canEnd : s.CanEndWith r) :
    (s.complete r).ResultOk := by
  cases r with
  | out d => simp [State.ResultOk]
  | err kind char pos =>
    rcases canEnd with ⟨rfl, rfl, rfl⟩ | ⟨codec, -, noChar⟩
    · simp [State.ResultOk]
    · simpa [State.ResultOk, codec] using noChar
  | bool b => simp [State.ResultOk]

theorem State.complete_inv {s : State} {r : Result} (config : s.ConfigOk) (buffers : s.BuffersOk)
    (canEnd : s.CanEndWith r) : (s.complete r).Inv := by
  refine ⟨?_, s.complete_buffersOk buffers canEnd, ?_, s.complete_statusOk canEnd,
    s.complete_resultOk canEnd⟩
  · rwa [State.ConfigOk, State.complete_config]
  · simp [State.EngineOk]

end Sys2Proof.Machine
end

section
/-!
PROOFS. The whole machine: every step keeps the invariant, every step answers (60_exceptions.md
R188), and the command in flight completes (70_reset_and_hazards.md R211), under POLL too.
-/

namespace Sys2Proof.Machine

open Sys2Proof

/-! ### Requests keep the invariant -/

theorem State.badCommand_inv {s : State} (inv : s.Inv) (op : BitVec 2) :
    (s.accept op).badCommand.Inv := by
  obtain ⟨config, buffers, -⟩ := inv
  exact State.complete_inv (s := s.accept op) config buffers (.inl ⟨rfl, rfl, rfl⟩)

/-- A started command is the one LAST_OP names, with a length that fits (R130). -/
theorem State.started_inv {s : State} (inv : s.Inv) {op : BitVec 2} {c : Command}
    (hc : commandOf op = some c) (fits : s.inLen.toNat ≤ s.config.nIn) :
    ((s.accept op).start c).Inv := by
  obtain ⟨config, buffers, -⟩ := inv
  refine ⟨config, buffers, ?_, ?_, ?_⟩
  · simpa [State.EngineOk] using ⟨fits, opOf_of_commandOf hc⟩
  · simp [State.StatusOk]
  · simp [State.ResultOk, State.busy]

theorem State.cmdWrite_inv {s : State} (inv : s.Inv) (w : Word) : (s.cmdWrite w).Inv := by
  rcases s.cmdWrite_cases w with ⟨-, h⟩ | ⟨-, -, h⟩ | ⟨-, c, hc, fits, h⟩ <;> rw [h]
  · exact inv
  · exact State.badCommand_inv inv _
  · exact State.started_inv inv hc fits

/-- The response and the draw counter are outside the invariant. -/
theorem State.respond_inv {s : State} (inv : s.Inv) (rdata : Word) (resp : Resp) :
    (s.respond rdata resp).Inv := inv

theorem exec_inv {i : Instr} {s t : State} (inv : s.Inv) (ran : exec i s = .next t) : t.Inv := by
  obtain ⟨u, rdata, resp, rfl, h⟩ := exec_cases ran
  refine State.respond_inv ?_ rdata resp
  rcases h with rfl | ⟨-, w, rfl⟩ | ⟨_, wdata, -, rfl⟩ | ⟨_, wdata, -, inside, rfl⟩
  · exact inv
  · exact State.cmdWrite_inv inv w
  · exact State.writeInLen_inv inv wdata
  · exact State.writeIbuf_inv inv inside _

/-! ### The engine keeps the invariant -/

/-- ERR_CHAR is 0 unless the scan found the error (R34, R182). -/
theorem decodeFn_err_char {wsSet s : List Byte} {kind : ErrKind} {char : Byte} {pos : Nat}
    (h : decodeFn wsSet s = .err kind char pos) :
    kind ≠ .badCommand ∧
      (kind ≠ .paddingInMiddle → kind ≠ .invalidCharacter → char = 0#8) := by
  rcases (decodeErrorPriority wsSet s kind char pos).mp h with
    hs | ⟨t, -, rfl, ⟨rfl, -⟩ | ⟨rfl, -⟩⟩
  · rcases (scan_err hs).1 with rfl | rfl <;> simp
  · simp
  · simp

theorem decodeFn_ne_bool (wsSet s : List Byte) (b : Bool) : decodeFn wsSet s ≠ .bool b := by
  cases hs : scan wsSet s with
  | err kind char pos => simp [decodeFn_of_scan_err hs]
  | ok t =>
    rw [decodeFn_of_scan_ok hs]
    rcases decodeCleaned_cases t with ⟨-, e⟩ | ⟨-, e⟩ | ⟨-, -, ⟨d, -, e⟩ | ⟨g, -, e⟩⟩ <;> simp [e]

/-- What the command in flight gives is a result that its OP can end with. -/
theorem State.canEndWith_runCommand {s : State} {op : Command} {input : List Byte}
    (lastOp : s.lastOp = opOf op) (fits : input.length ≤ s.config.nIn) :
    s.CanEndWith (runCommand s.config op input) := by
  have size := runCommand_outCount_le op fits
  cases hr : runCommand s.config op input with
  | out d => rwa [hr] at size
  | err kind char pos =>
    obtain ⟨rfl, hd, -⟩ := runCommand_eq_err hr
    obtain ⟨codec, noChar⟩ := decodeFn_err_char hd
    exact .inr ⟨codec, lastOp, noChar⟩
  | bool b =>
    cases op with
    | encode => cases hr
    | decode => exact absurd hr (decodeFn_ne_bool _ _ b)
    | validate => exact lastOp

theorem engineStep_inv {s t : State} (inv : s.Inv) (turn : engineStep s = .next t) : t.Inv := by
  rcases engineStep_cases turn with ⟨-, rfl⟩ | ⟨f, inFlight, fits, -, rfl⟩
  · exact inv
  · obtain ⟨config, buffers, engine, -⟩ := inv
    obtain ⟨-, -, lastOp⟩ := engine f (by simp [inFlight])
    exact State.complete_inv config buffers
      (State.canEndWith_runCommand lastOp (by rwa [State.inputBytes_length]))

/-- Settles O52: each kind of step is made of operations that keep the invariant. -/
theorem invariantKeptByEveryStep : Obligations.InvariantKeptByEveryStep := by
  unfold Obligations.InvariantKeptByEveryStep
  intro s t inv h
  rcases step_cases h with
    ⟨-, turn⟩ | ⟨w, rest, -, ran⟩ | ⟨we, addr, rest, -, rfl⟩ | ⟨rest, -, turn⟩ | ⟨rest, -, rfl⟩
  · exact engineStep_inv inv turn
  · exact exec_inv (s := { s with inputs := rest }) inv ran
  · exact inv
  · exact engineStep_inv (s := { s with inputs := rest }) inv turn
  · exact State.resetEvent_inv inv.1

/-! ### Every step answers -/

theorem exec_answers (i : Instr) (s : State) : ∃ t, exec i s = .next t := by
  cases i with
  | encode reserved => exact ⟨_, rfl⟩
  | decode reserved => exact ⟨_, rfl⟩
  | validate reserved => exact ⟨_, rfl⟩
  | badcmd reserved => exact ⟨_, rfl⟩
  | rd addr wdata => rw [exec, execRd]; split <;> exact ⟨_, rfl⟩
  | wr addr wdata => rw [exec, execWr]; split <;> exact ⟨_, rfl⟩
  | rdbIbuf addr wdata => rw [exec, execRdbIbuf]; split <;> exact ⟨_, rfl⟩
  | wrbIbuf addr wdata => rw [exec, execWrbIbuf]; split <;> exact ⟨_, rfl⟩
  | rdbObuf addr wdata => rw [exec, execRdbObuf]; split <;> exact ⟨_, rfl⟩
  | illegalWrbObuf addr wdata => exact ⟨_, rfl⟩
  | illegalPort3Rd addr wdata => exact ⟨_, rfl⟩
  | illegalPort3Wr addr wdata => exact ⟨_, rfl⟩

theorem engineStep_answers {s : State} (inv : s.Inv) : ∃ t, engineStep s = .next t := by
  cases inFlight : s.engine with
  | none => exact ⟨s, by rw [engineStep, inFlight]⟩
  | some f =>
    obtain ⟨-, -, engine, -⟩ := inv
    obtain ⟨fits, -⟩ := engine f (by simp [inFlight])
    exact ⟨_, engineStep_completes inFlight fits⟩

/-- Settles O53: a transaction always answers, and the engine does where the length in flight is
good. -/
theorem stepAlwaysAnswers : Obligations.StepAlwaysAnswers := by
  unfold Obligations.StepAlwaysAnswers
  intro s inv
  cases hi : s.inputs with
  | nil => rw [step_none hi]; exact engineStep_answers inv
  | cons event rest =>
    cases event with
    | host w => rw [step_host hi]; exact exec_answers _ _
    | subWord we addr => exact ⟨_, step_subWord hi⟩
    | engineTurn => rw [step_engineTurn hi]; exact engineStep_answers inv
    | reset => exact ⟨_, step_reset hi⟩

/-! ### The listed events run out -/

theorem step_inputs {s t : State} (h : step s = .next t) : t.inputs = s.inputs.tail := by
  rcases step_cases h with
    ⟨hi, turn⟩ | ⟨w, rest, hi, ran⟩ | ⟨we, addr, rest, hi, rfl⟩ | ⟨rest, hi, turn⟩ | ⟨rest, hi, rfl⟩
  · rw [(engineStep_surroundings turn).2, hi]
    rfl
  · obtain ⟨-, -, inputs⟩ := exec_draws_surroundings ran
    rw [inputs, hi]
    rfl
  · rw [hi]
    rfl
  · rw [(engineStep_surroundings turn).2, hi]
    rfl
  · rw [hi]
    rfl

theorem runSteps_succ {n : Nat} {s t : State} (h : step s = .next t) :
    runSteps (n + 1) s = runSteps n t := by
  rw [runSteps, h]

/-- The step after the listed events is the engine's turn. -/
theorem runSteps_past_inputs {n : Nat} {s : State} (inv : s.Inv) (length : s.inputs.length = n) :
    ∃ t, runSteps (n + 1) s = .next t ∧ t.busy = false ∧ t.inputs = [] := by
  induction n generalizing s with
  | zero =>
    have noEvents := List.eq_nil_of_length_eq_zero length
    obtain ⟨t, turn⟩ := engineStep_answers inv
    refine ⟨t, runSteps_succ ((step_none noEvents).trans turn), engineStep_busy turn, ?_⟩
    rw [(engineStep_surroundings turn).2, noEvents]
  | succ n ih =>
    obtain ⟨u, hu⟩ := stepAlwaysAnswers s inv
    have shorter : u.inputs.length = n := by
      rw [step_inputs hu, List.length_tail, length, Nat.add_sub_cancel]
    obtain ⟨t, ran, idle, noEvents⟩ := ih (invariantKeptByEveryStep s u inv hu) shorter
    exact ⟨t, (runSteps_succ hu).trans ran, idle, noEvents⟩

theorem engineStep_done_of_busy {s t : State} (turn : engineStep s = .next t)
    (busy : s.busy = true) : t.done = true := by
  rcases engineStep_cases turn with ⟨idle, -⟩ | ⟨f, -, -, -, rfl⟩
  · simp [State.busy_eq_false.mpr idle] at busy
  · exact State.complete_done s _

/-- Settles O54: the last step is the engine's turn, which leaves the block idle. -/
theorem commandInFlightCompletes : Obligations.CommandInFlightCompletes := by
  unfold Obligations.CommandInFlightCompletes
  intro s inv
  obtain ⟨t, ran, idle, noEvents⟩ := runSteps_past_inputs inv rfl
  refine ⟨t, ran, idle, noEvents, fun hi busy => ?_, rfl, by rw [pollEnds_statusWord, idle]; rfl⟩
  obtain ⟨u, turn⟩ := engineStep_answers inv
  rw [hi, List.length_nil, runSteps_succ ((step_none hi).trans turn)] at ran
  cases ran
  exact engineStep_done_of_busy turn busy

/-! ### POLL -/

/-- What one turn of the engine makes of `s`, up to responses and draws. -/
abbrev EngineMoved (s t : State) : Prop :=
  t.busy = false ∧ SameIbuf s t ∧ SameSurroundings s t ∧
    (s.busy = false → SameRegisters s t ∧ SameObuf s t) ∧
    ∀ f b, s.engine = some f → s.HoldsInput b → t.Reports (runCommand s.config f.op b)

theorem engineMoved_of_idle {s : State} (idle : s.busy = false) : EngineMoved s s := by
  refine ⟨idle, fun _ => rfl, ⟨rfl, rfl⟩,
    fun _ => ⟨sameRegisters_refl s, fun _ => rfl⟩, fun f b inFlight => ?_⟩
  simp [State.busy_eq_false.mp idle] at inFlight

theorem engineStep_engineMoved {s : State} (inv : s.Inv) :
    ∃ t, engineStep s = .next t ∧ EngineMoved s t := by
  obtain ⟨t, turn⟩ := engineStep_answers inv
  refine ⟨t, turn, ?_⟩
  cases busy : s.busy with
  | false =>
    obtain rfl := engineStep_of_idle turn busy
    exact engineMoved_of_idle busy
  | true =>
    obtain ⟨-, -, ibuf, surroundings, -⟩ := engineTurnFrame s t turn
    refine ⟨engineStep_busy turn, ibuf, surroundings, fun idle => ?_, fun f b inFlight holds => ?_⟩
    · simp [busy] at idle
    · obtain ⟨-, -, engine, -⟩ := inv
      obtain ⟨fits, length, -⟩ := engine f (by simp [inFlight])
      have turn' := engineStep_of_holdsInput inFlight length holds
        (by rwa [← holds.1, ← length])
      obtain rfl := outcome_next_inj turn turn'
      exact complete_runCommand_reports s s.config f.op _ (holds.1 ▸ s.inLen.isLt)

/-- While the engine has not moved, each read of POLL finds BUSY = 1. -/
theorem poll_of_busy {s : State} {turns : List Bool} (busy : s.busy = true)
    (noTurn : true ∉ turns) :
    ∃ t, poll turns s = .next ⟨t, none⟩ ∧ SameRegisters s t ∧ SameIbuf s t ∧ SameObuf s t := by
  induction turns generalizing s with
  | nil => exact ⟨s, rfl, sameRegisters_refl s, fun _ => rfl, fun _ => rfl⟩
  | cons turn turns ih =>
    obtain ⟨rfl, later⟩ : turn = false ∧ true ∉ turns := by simpa using noTurn
    obtain ⟨t, ran, same⟩ := ih (s := s.respond s.statusWord .okay) busy later
    exact ⟨t, by rw [poll_round turns rfl, if_pos busy, ran], same⟩

/-- POLL ends at the first read that finds the block idle. -/
theorem poll_ends {s : State} {turns : List Bool} (inv : s.Inv)
    (ends : true ∈ turns ∨ s.busy = false ∧ turns ≠ []) :
    ∃ t, poll turns s = .next ⟨t, some t.statusWord⟩ ∧ EngineMoved s t := by
  induction turns generalizing s with
  | nil => simp at ends
  | cons turn turns ih =>
    cases turn with
    | true =>
      obtain ⟨u, turn, moved⟩ := engineStep_engineMoved inv
      refine ⟨u.respond u.statusWord .okay, ?_, moved⟩
      rw [poll_round turns ((if_pos rfl).trans turn), moved.1]
      rfl
    | false =>
      cases busy : s.busy with
      | true =>
        have later : true ∈ turns := by simpa [busy] using ends
        obtain ⟨t, ran, moved⟩ := ih (s := s.respond s.statusWord .okay) inv (.inl later)
        exact ⟨t, by rw [poll_round turns rfl, if_pos busy, ran], moved⟩
      | false =>
        refine ⟨s.respond s.statusWord .okay, ?_, engineMoved_of_idle busy⟩
        rw [poll_round turns rfl, busy]
        rfl

/-- Settles O60: POLL goes on while BUSY = 1, and ends at the first read after the engine's turn. -/
theorem pollEndsWithTheCommand : Obligations.PollEndsWithTheCommand := by
  unfold Obligations.PollEndsWithTheCommand
  intro s turns inv
  refine ⟨poll_of_busy, fun ends => ?_⟩
  obtain ⟨t, ran, idle, rest⟩ := poll_ends inv ends
  have bit : t.statusWord.getLsbD 0 = t.busy :=
    (statusWord_layout (errKindCode t.errKind) t.valid t.err t.done t.busy).1
  exact ⟨t, ran, idle, bit.trans idle, rest⟩

end Sys2Proof.Machine
end

section
/-!
PROOFS. The host programs LOADX and READOUT (30_encoding.md R83), transaction by transaction.
-/

namespace Sys2Proof.Machine

open Sys2Proof

/-- All but IBUF and what a reply writes is the same. -/
abbrev SameButIbuf (s t : State) : Prop :=
  SameRegisters s t ∧ t.obuf = s.obuf ∧ SameSurroundings s t

theorem sameButIbuf_refl (s : State) : SameButIbuf s s :=
  ⟨sameRegisters_refl s, rfl, rfl, rfl⟩

/-! ### LOADX -/

theorem byteLane_setWidth (c : Byte) : byteLane (c.setWidth 32) = c := by
  revert c
  decide

theorem toNat_ofNat_index {k : Nat} (h : k < 2 ^ 32) : (BitVec.ofNat 32 k).toNat = k :=
  Nat.mod_eq_of_lt h

/-- One write of LOADX (R168). -/
theorem exec_wrbIbuf_of_idle {s : State} {k : Nat} (c : Byte) (idle : s.busy = false)
    (inside : k < s.config.nIn) (index : k < 2 ^ 32) :
    AcknowledgesAs (.wrbIbuf (BitVec.ofNat 32 k) (c.setWidth 32)) s
      { s with ibuf := s.ibuf.set k c } := by
  have written := wrbIbuf_acknowledges s (addr := BitVec.ofNat 32 k) (c.setWidth 32)
    (by rwa [toNat_ofNat_index index])
  rwa [toNat_ofNat_index index, byteLane_setWidth, State.writeIbuf_of_idle k c idle] at written

/-- The byte writes of LOADX leave `b` in IBUF from index `k` on. -/
theorem execAll_writeBytesFrom {s : State} {b : List Byte} {k : Nat} (replies : List Response)
    (idle : s.busy = false) (inside : k + b.length ≤ s.config.nIn)
    (index : k + b.length ≤ 2 ^ 32) :
    ∃ t new, execAll (writeBytesFrom k b) ⟨s, replies⟩ = .next ⟨t, replies ++ new⟩ ∧
      new.length = b.length ∧ (∀ r ∈ new, r.resp = .okay) ∧
      t.ibuf = s.ibuf.setFrom k b ∧ SameButIbuf s t := by
  induction b generalizing s k replies with
  | nil => exact ⟨s, [], by simp [writeBytesFrom], rfl, by simp, rfl, sameButIbuf_refl s⟩
  | cons c b ih =>
    rw [List.length_cons] at inside index
    obtain ⟨rdata, ran⟩ := exec_wrbIbuf_of_idle c idle (k := k) (by omega) (by omega)
    obtain ⟨t, new, rest, length, okay, written, same⟩ :=
      ih (s := State.replied { s with ibuf := s.ibuf.set k c } rdata .okay) (k := k + 1)
        (replies ++ [⟨rdata, .okay⟩]) idle (by simpa using by omega) (by omega)
    refine ⟨t, ⟨rdata, .okay⟩ :: new, ?_, by simp [length], by simpa using okay, written, same⟩
    rw [writeBytesFrom, execAll_cons ran, List.append_cons]
    exact rest

/-- Settles O45: the byte writes, then the store of IN_LEN. -/
theorem loadPreparesInput : Obligations.LoadPreparesInput := by
  unfold Obligations.LoadPreparesInput
  intro s b idle fits short
  obtain ⟨t, new, ran, length, okay, written,
    ⟨lastOp, done, err, valid, errKind, -, outLen, errChar, errPos, engine⟩, obuf, around⟩ :=
    execAll_writeBytesFrom (s := s) (b := b) (k := 0) [] idle (by omega) (by omega)
  have idle' : t.busy = false := (congrArg Option.isSome engine).trans idle
  obtain ⟨rdata, stored⟩ := wr_inLen_acknowledges t (BitVec.ofNat 32 b.length)
  rw [State.writeInLen_of_idle _ idle'] at stored
  refine ⟨State.replied { t with inLen := BitVec.ofNat 32 b.length } rdata .okay,
    new ++ [⟨rdata, .okay⟩], ?_, by simp [length], ?_, idle', ⟨toNat_ofNat_index short, ?_⟩,
    ⟨lastOp, done, err, valid, errKind, rfl, outLen, errChar, errPos, engine⟩, ?_,
    fun a => congrArg (Memory.get? · a) obuf, around⟩
  · rw [loadX, execAll_append _ ran, execAll_cons stored]
    rfl
  · simpa [or_imp, forall_and] using okay
  · intro j hj
    simp [written, Memory.get?_setFrom, hj]
  · intro a ha
    have above : ¬ a < b.length := Nat.not_lt.mpr ha
    simp [written, Memory.get?_setFrom, above]

/-! ### READOUT -/

/-- One byte read of READOUT (R169). -/
theorem rdbObuf_of_reportsOutput {s : State} {d : List Byte} {k : Nat} {c : Byte}
    (reports : s.ReportsOutput d) (short : d.length < 2 ^ 32) (fits : d.length ≤ s.config.nOut)
    (hc : d[k]? = some c) :
    Replies (.rdbObuf (BitVec.ofNat 32 k) 0#32) s (c.setWidth 32) .okay := by
  obtain ⟨idle, -, -, -, -, outLen, -, -, bytes⟩ := reports
  obtain ⟨inside, -⟩ := List.getElem?_eq_some_iff.mp hc
  have index := toNat_ofNat_index (k := k) (by omega)
  have reply := rdbObuf_replies s (addr := BitVec.ofNat 32 k) 0#32 (by omega)
  rwa [index, State.readObuf_of_written idle (by rwa [outLen short])
    ((bytes k inside).trans hc)] at reply

/-- The byte reads of READOUT at any indices of the output. -/
theorem execAll_rdbObuf {s : State} {d : List Byte} (reports : s.ReportsOutput d)
    (short : d.length < 2 ^ 32) (fits : d.length ≤ s.config.nOut) {ks : List Nat}
    (inside : ∀ k ∈ ks, k < d.length) (replies : List Response) :
    ∃ t, execAll (ks.map fun k => .rdbObuf (BitVec.ofNat 32 k) 0#32) ⟨s, replies⟩ =
        .next ⟨t, replies ++ (ks.map (d.getD · 0#8)).map fun c => ⟨c.setWidth 32, .okay⟩⟩ ∧
      t.ReportsOutput d ∧ t.ibuf = s.ibuf ∧ SameButIbuf s t := by
  induction ks generalizing s replies with
  | nil => exact ⟨s, by simp, reports, rfl, sameButIbuf_refl s⟩
  | cons k ks ih =>
    obtain ⟨here, later⟩ := List.forall_mem_cons.mp inside
    have ran := rdbObuf_of_reportsOutput reports short fits (List.getElem?_eq_getElem here)
    obtain ⟨t, rest, same⟩ := ih (s := s.replied (d[k].setWidth 32) .okay) reports fits later
      (replies ++ [⟨d[k].setWidth 32, .okay⟩])
    refine ⟨t, ?_, same⟩
    rw [List.map_cons, execAll_cons ran, List.map_cons, List.map_cons,
      List.getD_eq_getElem _ _ here, List.append_cons]
    exact rest

theorem map_getD_range (d : List Byte) : (List.range d.length).map (d.getD · 0#8) = d := by
  refine List.ext_getElem (by simp) fun j hj hd => ?_
  rw [List.getElem_map, List.getElem_range, List.getD_eq_getElem _ _ hd]

/-- Settles O46: OUT_LEN reads exactly while idle, and so does every byte below it. -/
theorem readoutReturnsOutput : Obligations.ReadoutReturnsOutput := by
  unfold Obligations.ReadoutReturnsOutput
  intro s d reports short fits
  have length : Replies (.rd 0x0C#32 0#32) s (BitVec.ofNat 32 d.length) .okay := by
    obtain ⟨idle, -, -, -, -, outLen, -⟩ := reports
    have count : s.outLen = BitVec.ofNat 32 d.length :=
      BitVec.eq_of_toNat_eq ((outLen short).trans (toNat_ofNat_index short).symm)
    obtain ⟨-, -, -, reply, -⟩ := registerReadReturns s 0#32
    rwa [idle, if_neg Bool.false_ne_true, count] at reply
  refine ⟨length, fun k c => rdbObuf_of_reportsOutput reports short fits, ?_⟩
  obtain ⟨t, ran, reports', ibuf, registers, obuf, around⟩ :=
    execAll_rdbObuf (s := s.replied (BitVec.ofNat 32 d.length) .okay) (ks := List.range d.length)
      reports short fits (by simp) [⟨BitVec.ofNat 32 d.length, .okay⟩]
  rw [map_getD_range] at ran
  refine ⟨t, ?_, reports', registers, fun a => congrArg (Memory.get? · a) ibuf,
    fun a => congrArg (Memory.get? · a) obuf, around⟩
  simp only [readout, HostRun.issue_eq (r := ⟨s, []⟩) length]
  rw [toNat_ofNat_index short, readBytes]
  exact ran

end Sys2Proof.Machine
end
